-- ==== Sys2Proof/Word.lean ====
section
/-! DEFINITION. The two widths of the A2EMU 6502 core (spec/00_scope.md R5, R7, R8): the byte and the 16-bit
address. Every stored value is an unsigned bit vector, bit 0 the least significant. -/

namespace Sys2Proof

/-- DATA_WIDTH, 8 bits: A, X, Y, SP, every memory cell, every bus transfer (R5). -/
abbrev Byte := BitVec 8

/-- ADDR_WIDTH, 16 bits: PC, every bus address, the cached vectors (R5). -/
abbrev Addr := BitVec 16

end Sys2Proof
end

