-- ==== Sys2Proof/AddrMode.lean ====
section
/-! DEFINITION. The addressing modes (spec/40_addressing_modes.md R100 to R114) and an instruction's operand: the
mode together with the operand bytes that the resolver fetches, assembled as R81 says. -/

namespace Sys2Proof

/-- The mode tags of the opcode table (R82): the twelve named modes of R114, and `acc`, which R113 resolves as
Implied and keeps apart only for the operation's choice of operand. -/
inductive Mode where
  | imp | acc | imm | zp | zpx | zpy | abs | absx | absy | ind | izx | izy | rel
deriving DecidableEq, Repr

/-- The operand of an instruction that has several forms. An Implied instruction has no operand and a Relative one
has its displacement byte, so neither needs a form here. -/
inductive Operand where
  | acc               -- Accumulator, R113
  | imm (v : Byte)    -- Immediate, R101: the literal
  | zp (z : Byte)     -- Zero-Page, R102
  | zpx (z : Byte)    -- Zero-Page,X, R103
  | zpy (z : Byte)    -- Zero-Page,Y, R104
  | abs (a : Addr)    -- Absolute, R105
  | absx (a : Addr)   -- Absolute,X, R106
  | absy (a : Addr)   -- Absolute,Y, R107
  | ind (p : Addr)    -- Indirect, R108: the pointer's address
  | izx (z : Byte)    -- Indexed-Indirect, R109
  | izy (z : Byte)    -- Indirect-Indexed, R110
deriving DecidableEq, Repr

/-- The mode of an operand. -/
def Operand.mode : Operand → Mode
  | .acc => .acc
  | .imm _ => .imm
  | .zp _ => .zp
  | .zpx _ => .zpx
  | .zpy _ => .zpy
  | .abs _ => .abs
  | .absx _ => .absx
  | .absy _ => .absy
  | .ind _ => .ind
  | .izx _ => .izx
  | .izy _ => .izy

end Sys2Proof
end

