-- ==== Sys2Proof/Machine/Bits.lean ====
section
/-! DEFINITION. Slices, extensions and the byte order (spec/00_scope.md R7, R8; spec/20_memory.md R55). -/

namespace Sys2Proof

/-- The 16-bit value of two bytes, `{hi, lo}` of R7: hi × 256 + lo. -/
def joinBytes (hi lo : Byte) : Addr := BitVec.ofNat 16 (hi.toNat * 256 + lo.toNat)

/-- The high byte, v[15:8] (R7). -/
def hiByte (v : Addr) : Byte := v.extractLsb' 8 8

/-- The low byte, v[7:0] (R7). -/
def loByte (v : Addr) : Byte := v.extractLsb' 0 8

/-- zext_16 (R8): low byte d, high byte 0. -/
def zext16 (d : Byte) : Addr := d.setWidth 16

/-- sext_16 (R8): d when d[7] = 0, d + 0xFF00 when d[7] = 1. -/
def sext16 (d : Byte) : Addr := if d.getLsbD 7 then zext16 d + 0xFF00#16 else zext16 d

/-- The low nibble v[3:0] as a number (R16). -/
def loNibble (v : Byte) : Nat := v.toNat % 16

/-- The high nibble v[7:4] as a number (R16). -/
def hiNibble (v : Byte) : Nat := v.toNat / 16

end Sys2Proof
end

