-- ==== Sys2Proof/Config.lean ====
section
/-! DEFINITION. The named parameters that spec/00_scope.md R6 (and spec/93_implementation_defined.md U3) leaves to the
implementation, as plain data, and the free values. A machine holds one `Config` and no step changes it, so a claim about
every state is a claim about every choice of these parameters. -/

namespace Sys2Proof

/-- ILLEGAL_POLICY (R6, R226, D1): what an unpopulated opcode slot does. -/
inductive IllegalPolicy where
  | signal   -- the step reports IllegalOpcode to the host: the value the spec takes
  | nop      -- the step is an ordinary one-byte no-operation
deriving DecidableEq, Repr

/-- What decimal ADC and SBC answer where the source says nothing (U3): an operand that is not valid BCD, and V after any
decimal operation. -/
inductive DecimalPolicy where
  | algorithm   -- the value the pseudocode of R141 and R142 gives: the value the spec takes (D16, D17, D18)
  | cautious    -- a free value
deriving DecidableEq, Repr

/-- The open parameters of R6 that change what a step does. -/
structure Config where
  /-- ILLEGAL_POLICY, R226. -/
  illegalPolicy : IllegalPolicy
  /-- SWITCH_ON_READ, R51. -/
  switchOnRead : Bool
  /-- SWITCH_ON_WRITE, R52. -/
  switchOnWrite : Bool
  /-- ZP_PTR_WRAP, R109 and R110. -/
  zpPtrWrap : Bool
  /-- TXS_SETS_ZN, R132. -/
  txsSetsZN : Bool
  /-- BRK_PUSHES_I_AFTER_SET, R210. -/
  brkPushesIAfterSet : Bool
  /-- The treatment of U3, R141 (c) and R142 (d). -/
  decimal : DecimalPolicy
deriving DecidableEq, Repr

/-- The values the spec takes (R6, column "value taken by this spec"; D16 to D18 for `decimal`). -/
def Config.recommended : Config where
  illegalPolicy := .signal
  switchOnRead := true
  switchOnWrite := true
  zpPtrWrap := true
  txsSetsZN := false
  brkPushesIAfterSet := true
  decimal := .algorithm

/-- The two operations that have a decimal form. -/
inductive DecimalOp where
  | adc | sbc
deriving DecidableEq, Repr

/-- FREE VALUE: the byte a decimal ADC or SBC of A, M and Carry leaves in A when A or M is not valid BCD, under
`DecimalPolicy.cautious` (U3). -/
opaque Config.freeDecimalResult : DecimalOp → Byte → Byte → Bool → Byte

/-- FREE VALUE: the Carry of that operation (U3). -/
opaque Config.freeDecimalCarry : DecimalOp → Byte → Byte → Bool → Bool

/-- FREE VALUE: V after a decimal ADC or SBC of any A, M and Carry, under `DecimalPolicy.cautious` (U3). -/
opaque Config.freeDecimalOverflow : DecimalOp → Byte → Byte → Bool → Bool

end Sys2Proof
end

