-- ==== Sys2Proof/Machine/State.lean ====
section
/-! DEFINITION. The machine's state as plain data (spec/10_state.md), the reasons a step can stop, and the state after
reset. -/

namespace Sys2Proof.Machine

/-- The flag latch P: seven independent one-bit flags (R23). It is no register; the packed status byte exists only on the
stack (R13). -/
structure Flags where
  /-- P.N, Negative. -/
  n : Bool
  /-- P.V, Overflow. -/
  v : Bool
  /-- P.B, Break: a real latch (R24). -/
  b : Bool
  /-- P.D, Decimal. -/
  d : Bool
  /-- P.I, Interrupt-disable. -/
  i : Bool
  /-- P.Z, Zero. -/
  z : Bool
  /-- P.C, Carry. -/
  c : Bool
deriving DecidableEq, Repr

/-- The I/O latches inside the bus decoder (R29, R248). -/
structure IoLatches where
  /-- KEY_CODE, the last key the host queued, 7 bits. -/
  keyCode : BitVec 7
  /-- KEY_PENDING. -/
  keyPending : Bool
  /-- TEXT, text-display mode on. -/
  text : Bool
  /-- MIXED, mixed graphics and text mode on. -/
  mixed : Bool
  /-- HIRES: true selects high-resolution graphics, false low-resolution. -/
  hires : Bool
deriving DecidableEq, Repr

/-- The three cached vectors, written by Boot only (R25). -/
structure Vectors where
  /-- VEC_NMI. -/
  nmi : Addr
  /-- VEC_RESET. -/
  reset : Addr
  /-- VEC_BRK. -/
  brk : Addr
deriving DecidableEq, Repr

/-- The run state (R31): which host operation is legal next. -/
inductive RunState where
  | constructed   -- the spec's Reset state: constructed and not yet booted
  | running       -- booted: Step is legal
  | halted        -- the host has stopped the loop
deriving DecidableEq, Repr

/-- The backing array MEM (R27) as a sparse list of address and byte, in the canonical form of Machine/Memory.lean. -/
abbrev Memory := List Host.Cell

/-- Everything the spec gives the machine. -/
structure State where
  /-- A, the accumulator (R20). -/
  a : Byte
  /-- X, an index register (R20). -/
  x : Byte
  /-- Y, an index register (R20). -/
  y : Byte
  /-- SP, the stack pointer into page 1 (R21). -/
  sp : Byte
  /-- PC, the address of the next byte to fetch (R22). -/
  pc : Addr
  /-- P, the flag latch (R23). -/
  p : Flags
  /-- MEM, the backing array (R27). -/
  mem : Memory
  /-- The keyboard latch and the display-mode flags (R29). -/
  io : IoLatches
  /-- The cached vectors (R25). -/
  vec : Vectors
  /-- CYC, the cumulative cycle count, unbounded (R30). -/
  cyc : Nat
  /-- Reset, Running or Halted (R31). -/
  run : RunState
  /-- The open parameters of R6: fixed for a machine, written by no step. -/
  cfg : Config
deriving DecidableEq, Repr

/-- Why a step stops with a fault. -/
inductive Fault where
  /-- IllegalOpcode (R14, R226, R241): raised by the instruction ILLEGAL alone, under ILLEGAL_POLICY = signal, with the
  opcode byte and the address it was fetched from. Safe: the spec has a model stop here (U1), and the state the hardware
  is left in is `stateAfterIllegal` of Machine/HostOps.lean. -/
  | illegalOpcode (op : Byte) (addr : Addr)
deriving DecidableEq, Repr

/-- Why an operation is refused. -/
inductive Refusal where
  /-- An instruction without a meaning. No arm of `exec` raises it: every instruction has its meaning. Safe. -/
  | notModelled (mnemonic : String)
  /-- Step before Boot (R271, D29, U6): raised by `step`. Safe: the spec gives such a step no meaning. -/
  | stepBeforeBoot
  /-- Step after the host has stopped the loop (R31, R251): raised by `step`. Safe: the spec gives no way to resume. -/
  | stepAfterHalt
  /-- Boot of a machine that has left the Reset state (R251, R270): raised by the host operation Boot. Safe: the spec gives no
  way to resume or to reset again. -/
  | bootOutsideReset
  /-- Load past 0xFFFF (R272, D27, U7): raised by the host operation Load. Safe: the spec gives it no effect. -/
  | loadPastEnd
deriving DecidableEq, Repr

/-- The three outcomes of an instruction, a step or a host operation. -/
abbrev Result := Host.Outcome State Fault Refusal

/-- RESET_FLAGS (R40, D5): the instance the spec recommends, I set and the others clear. Log 3. -/
def resetFlags : Flags := ⟨false, false, false, false, true, false, false⟩

/-- The state Construct leaves (R40, R270): A = X = Y = 0, SP = 0xFF, KEY_PENDING = 0, CYC = 0. The spec gives no value to
KEY_CODE, TEXT, MIXED and HIRES (log 4), nor to PC and the cached vectors before Boot (log 5): all are zero here. -/
def State.construct : State where
  a := 0
  x := 0
  y := 0
  sp := 0xFF
  pc := 0
  p := resetFlags
  mem := []
  io := ⟨0, false, false, false, false⟩
  vec := ⟨0, 0, 0⟩
  cyc := 0
  run := .constructed
  cfg := Config.recommended

/-- The machine right after reset: constructed and booted with nothing loaded (R40, column "after Boot"). The vector slots
hold what unwritten memory reads as, 0x0000, so PC = 0x0000 (R273). Laws/HostOps.lean proves it is Boot of
`State.construct`. -/
def State.reset : State := { State.construct with run := .running }

end Sys2Proof.Machine
end

