-- ==== Sys2Proof/Machine/Flags.lean ====
section
/-! DEFINITION. The flag computations: the status byte (spec/00_scope.md R13), SetZN, and the ALU with its flags
(spec/42_arithmetic.md R140 to R143, spec/43_logic_shift.md R164 to R168, spec/44_compare.md R180). -/

namespace Sys2Proof.Machine

/-! ## The status byte -/

/-- A flag's bit mask, or 0 when the flag is clear. -/
def maskIf (flag : Bool) (mask : Byte) : Byte := if flag then mask else 0

/-- StatusByte(b) (R13): bit 7 down to bit 0 N V 1 b D I Z C. -/
def statusByte (b : Bool) (p : Flags) : Byte :=
  maskIf p.n 0x80 ||| maskIf p.v 0x40 ||| 0x20 ||| maskIf b 0x10 |||
    maskIf p.d 0x08 ||| maskIf p.i 0x04 ||| maskIf p.z 0x02 ||| maskIf p.c 0x01

/-- SetStatus(v) (R13): all seven flags from their bits, bit 5 ignored. -/
def flagsOfStatus (v : Byte) : Flags where
  n := v.getLsbD 7
  v := v.getLsbD 6
  b := v.getLsbD 4
  d := v.getLsbD 3
  i := v.getLsbD 2
  z := v.getLsbD 1
  c := v.getLsbD 0

/-- SetZN(v) (R13): Z from v = 0, N from bit 7 of v. -/
def Flags.setZN (v : Byte) (p : Flags) : Flags := { p with z := v == 0#8, n := v.getLsbD 7 }

/-! ## Add and subtract -/

/-- What ADC and SBC compute: the byte for A, Carry and Overflow. Z and N follow from the byte. -/
structure AluOut where
  r : Byte
  c : Bool
  v : Bool
deriving DecidableEq, Repr

/-- `(A XOR r) AND (M XOR r) AND 0x80` is not zero (R140). -/
def signMismatch (a m r : Byte) : Bool := ((a ^^^ r) &&& (m ^^^ r) &&& 0x80#8) != 0#8

/-- The integer t of ADC (R141), after the decimal corrections when D = 1. -/
def adcSum (d c : Bool) (a m : Byte) : Nat :=
  let t := a.toNat + m.toNat + c.toNat
  let t1 := if d && decide (loNibble a + loNibble m + c.toNat > 9) then t + 6 else t
  if d && decide (t1 > 0x99) then t1 + 0x60 else t1

/-- ADC as the pseudocode of R141 gives it, for every input. -/
def adcRule (d c : Bool) (a m : Byte) : AluOut :=
  let t := adcSum d c a m
  let r := BitVec.ofNat 8 t
  { r := r, c := t.testBit 8, v := signMismatch a m r }

/-- SBC as the pseudocode of R142 gives it, for every input: A + (M XOR 0xFF) + C, Carry 1 when nothing was borrowed. -/
def sbcRule (d c : Bool) (a m : Byte) : AluOut :=
  let mi := m ^^^ 0xFF#8
  let t := a.toNat + mi.toNat + c.toNat
  let r0 := BitVec.ofNat 8 t
  let r1 := if d && decide (loNibble a < loNibble m + (1 - c.toNat)) then r0 - 6#8 else r0
  let r := if d && !t.testBit 8 then r1 - 0x60#8 else r1
  { r := r, c := t.testBit 8, v := signMismatch a mi r }

/-- Both nibbles are decimal digits (R16). -/
def validBcd (v : Byte) : Bool := decide (loNibble v ≤ 9) && decide (hiNibble v ≤ 9)

/-- What U3 leaves open after a decimal operation, under `DecimalPolicy.cautious`: V always, and the byte and Carry too
when an operand is not valid BCD. Log 6. -/
def freeDecimal (op : DecimalOp) (c : Bool) (a m : Byte) (out : AluOut) : AluOut :=
  if validBcd a && validBcd m then { out with v := Config.freeDecimalOverflow op a m c }
  else
    { r := Config.freeDecimalResult op a m c
      c := Config.freeDecimalCarry op a m c
      v := Config.freeDecimalOverflow op a m c }

/-- ADC (R140, R141): the pseudocode's value, or under the cautious policy the free one where U3 leaves it open. -/
def aluAdc (policy : DecimalPolicy) (d c : Bool) (a m : Byte) : AluOut :=
  match policy, d with
  | .cautious, true => freeDecimal .adc c a m (adcRule d c a m)
  | _, _ => adcRule d c a m

/-- SBC (R140, R142): the pseudocode's value, or under the cautious policy the free one where U3 leaves it open. -/
def aluSbc (policy : DecimalPolicy) (d c : Bool) (a m : Byte) : AluOut :=
  match policy, d with
  | .cautious, true => freeDecimal .sbc c a m (sbcRule d c a m)
  | _, _ => sbcRule d c a m

/-- The flags ADC and SBC leave: C, V, Z, N; B, D and I untouched (R140). -/
def Flags.setAlu (out : AluOut) (p : Flags) : Flags := Flags.setZN out.r { p with c := out.c, v := out.v }

/-! ## Compare and bit test -/

/-- The flags a compare leaves (R180): C from the unsigned R ≥ M, Z and N from (R - M) mod 256. -/
def Flags.compare (reg m : Byte) (p : Flags) : Flags :=
  Flags.setZN (reg - m) { p with c := decide (m.toNat ≤ reg.toNat) }

/-- The flags BIT leaves (R164): Z from A AND M, N and V from bits 7 and 6 of M. -/
def Flags.bitTest (a m : Byte) (p : Flags) : Flags :=
  { p with z := (a &&& m) == 0#8, n := m.getLsbD 7, v := m.getLsbD 6 }

/-! ## Shifts, rotates, increment, decrement: the result byte and the flags -/

/-- ASL (R165): m × 2 modulo 256, C from bit 7. -/
def aslByte (m : Byte) (p : Flags) : Byte × Flags :=
  let v := m <<< 1
  (v, Flags.setZN v { p with c := m.getLsbD 7 })

/-- LSR (R166): 0 into bit 7, C from bit 0. -/
def lsrByte (m : Byte) (p : Flags) : Byte × Flags :=
  let v := m >>> 1
  (v, Flags.setZN v { p with c := m.getLsbD 0 })

/-- ROL (R167): the previous Carry into bit 0, C from bit 7. -/
def rolByte (m : Byte) (p : Flags) : Byte × Flags :=
  let v := (m <<< 1) ||| maskIf p.c 0x01
  (v, Flags.setZN v { p with c := m.getLsbD 7 })

/-- ROR (R168): the previous Carry into bit 7, C from bit 0. -/
def rorByte (m : Byte) (p : Flags) : Byte × Flags :=
  let v := (m >>> 1) ||| maskIf p.c 0x80
  (v, Flags.setZN v { p with c := m.getLsbD 0 })

/-- INC (R144): one more modulo 256, Z and N only. -/
def incByte (m : Byte) (p : Flags) : Byte × Flags :=
  let v := m + 1#8
  (v, Flags.setZN v p)

/-- DEC (R145): one less modulo 256, Z and N only. -/
def decByte (m : Byte) (p : Flags) : Byte × Flags :=
  let v := m - 1#8
  (v, Flags.setZN v p)

end Sys2Proof.Machine
end

