-- ==== Sys2Proof/Machine/Memory.lean ====
section
/-! DEFINITION. The backing array MEM (spec/10_state.md R27): reading and writing one byte of it, and its canonical form. -/

namespace Sys2Proof.Machine

/-- INIT_MEM (R40, D6): what an address that the list does not name reads as. Zero everywhere: the spec gives neither the
display page nor its fill pattern. Log 2. -/
def Memory.unlisted (_addr : Nat) : Byte := 0

/-- MEM[a]. -/
def Memory.read : Memory → Nat → Byte
  | [], a => Memory.unlisted a
  | (k, v) :: rest, a => if k = a then v else Memory.read rest a

/-- MEM[a] <- v, keeping the canonical form: a value the address reads as anyway is not listed. -/
def Memory.write : Memory → Nat → Byte → Memory
  | [], a, v => if v = Memory.unlisted a then [] else [(a, v)]
  | (k, w) :: rest, a, v =>
    if a < k then (if v = Memory.unlisted a then (k, w) :: rest else (a, v) :: (k, w) :: rest)
    else if a = k then (if v = Memory.unlisted a then rest else (a, v) :: rest)
    else (k, w) :: Memory.write rest a v

/-- The canonical form: addresses strictly rising, inside the address space (R27), and no entry equal to what an unlisted
address reads as. -/
abbrev Memory.wf (m : Memory) : Prop :=
  m.Pairwise (fun c e => c.1 < e.1) ∧ ∀ c ∈ m, c.1 < 65536 ∧ c.2 ≠ Memory.unlisted c.1

/-- MEM[a + i] <- bytes[i] in ascending order (R272). -/
def Memory.writeAll : Memory → Nat → List Byte → Memory
  | m, _, [] => m
  | m, a, v :: vs => Memory.writeAll (Memory.write m a v) (a + 1) vs

end Sys2Proof.Machine
end

