-- ==== Sys2Proof/Machine/Ops.lean ====
section
/-! DEFINITION. The named operations over registers and the bus: register writes, BusRead and BusWrite with the soft
switches (spec/20_memory.md R51 to R54), the instruction-stream, stack and trap primitives (spec/00_scope.md R11, R12;
spec/60_exceptions.md R244, R245), and the end of a step (spec/30_encoding.md R86). -/

namespace Sys2Proof.Machine

/-! ## Register writes -/

/-- A <- v. -/
def State.setA (s : State) (v : Byte) : State := { s with a := v }
/-- X <- v. -/
def State.setX (s : State) (v : Byte) : State := { s with x := v }
/-- Y <- v. -/
def State.setY (s : State) (v : Byte) : State := { s with y := v }
/-- SP <- v. -/
def State.setSP (s : State) (v : Byte) : State := { s with sp := v }
/-- PC <- v. -/
def State.setPC (s : State) (v : Addr) : State := { s with pc := v }
/-- The flag latch <- p. -/
def State.setP (s : State) (p : Flags) : State := { s with p := p }
/-- MEM <- m. -/
def State.setMem (s : State) (m : Memory) : State := { s with mem := m }
/-- The I/O latches <- io. -/
def State.setIo (s : State) (io : IoLatches) : State := { s with io := io }
/-- CYC <- CYC + n. -/
def State.addCycles (s : State) (n : Nat) : State := { s with cyc := s.cyc + n }

/-! ## The bus decoder -/

/-- 0xC000 to 0xCFFF: the soft-switch range, not backed by storage (R51, R59). -/
def inIoRange (a : Addr) : Bool := decide (0xC000 ≤ a.toNat) && decide (a.toNat ≤ 0xCFFF)

/-- At and above 0xD000 writes are discarded (R54). -/
def inRom (a : Addr) : Bool := decide (0xD000 ≤ a.toNat)

/-- The keyboard data address (R59). -/
def keyDataAddr : Addr := 0xC000

/-- The keyboard strobe address (R59). -/
def keyStrobeAddr : Addr := 0xC010

/-- The six display soft switches (R53); 0xC054 and 0xC055 are none. -/
def displaySwitches : List Addr := [0xC050, 0xC051, 0xC052, 0xC053, 0xC056, 0xC057]

/-- "apply soft switch a" (R53). -/
def applySwitch (a : Addr) (io : IoLatches) : IoLatches :=
  if a = 0xC050#16 then { io with text := false }
  else if a = 0xC051#16 then { io with text := true }
  else if a = 0xC052#16 then { io with mixed := false }
  else if a = 0xC053#16 then { io with mixed := true }
  else if a = 0xC056#16 then { io with hires := false }
  else if a = 0xC057#16 then { io with hires := true }
  else io

/-- What 0xC000 reads as (R51): bit 7 set over the key code while a key is pending, else 0. -/
def keyByte (io : IoLatches) : Byte := if io.keyPending then 0x80#8 ||| io.keyCode.setWidth 8 else 0

/-- BusRead(a) (R51): the byte, and the state with the read's side effect on the I/O latches. -/
def busRead (a : Addr) (s : State) : Byte × State :=
  if inIoRange a then
    if a = keyDataAddr then (keyByte s.io, s)
    else if a = keyStrobeAddr then (0, s.setIo { s.io with keyPending := false })
    else if displaySwitches.contains a && s.cfg.switchOnRead then (0, s.setIo (applySwitch a s.io))
    else (0, s)
  else (s.mem.read a.toNat, s)

/-- BusWrite(a, v) (R52): the I/O range stores nothing and ignores v, and 0xD000 and above discards the write. -/
def busWrite (a : Addr) (v : Byte) (s : State) : State :=
  if inIoRange a then
    if a = keyStrobeAddr then s.setIo { s.io with keyPending := false }
    else if displaySwitches.contains a && s.cfg.switchOnWrite then s.setIo (applySwitch a s.io)
    else s
  else if inRom a then s
  else s.setMem (s.mem.write a.toNat v)

/-! ## The instruction stream and the stack -/

/-- Fetch8() (R11). -/
def fetch8 (s : State) : Byte × State :=
  let (v, s1) := busRead s.pc s
  (v, s1.setPC (s1.pc + 1#16))

/-- The stack address 0x0100 OR SP (R21). -/
def stackAddr (sp : Byte) : Addr := 0x0100#16 ||| zext16 sp

/-- Push(v) (R12): store at SP, then decrement SP modulo 256. -/
def push (v : Byte) (s : State) : State :=
  let s1 := busWrite (stackAddr s.sp) v s
  s1.setSP (s1.sp - 1#8)

/-- Pull() (R12): increment SP modulo 256, then load. -/
def pull (s : State) : Byte × State :=
  let s1 := s.setSP (s.sp + 1#8)
  busRead (stackAddr s1.sp) s1

/-- Push a 16-bit value, high byte first (R55, R201, R210). -/
def pushWord (w : Addr) (s : State) : State := push (loByte w) (push (hiByte w) s)

/-- Pull a 16-bit value, low byte first (R202, R211). -/
def pullWord (s : State) : Addr × State :=
  let (lo, s1) := pull s
  let (hi, s2) := pull s1
  (joinBytes hi lo, s2)

/-! ## The trap and the return from it -/

/-- Trap entry (R244, R210), with PC the address of the BRK opcode + 1: set I, push PC + 1 high byte first, push the status
byte with Break forced, go to the cached break vector. The Break latch is not written. The pushed I is the new one, or the
old one when BRK_PUSHES_I_AFTER_SET is false (R6). -/
def takeBreak (s : State) : State :=
  let s1 := s.setP { s.p with i := true }
  let pushed := if s.cfg.brkPushesIAfterSet then s1.p else s.p
  let s2 := pushWord (s1.pc + 1#16) s1
  let s3 := push (statusByte true pushed) s2
  s3.setPC s3.vec.brk

/-- Trap return (R245, R211): pull the status byte into all seven flags, then PC, with no adjustment. -/
def returnFromBreak (s : State) : State :=
  let (v, s1) := pull s
  let s2 := s1.setP (flagsOfStatus v)
  let (ret, s3) := pullWord s2
  s3.setPC ret

/-! ## Branches and the end of a step -/

/-- A branch (R230), with PC the address of the next instruction: add the signed displacement when the condition holds. -/
def branchIf (cond : Bool) (d : Byte) (s : State) : State :=
  if cond then s.setPC (s.pc + sext16 d) else s

/-- The end of a step (R86): after the operation, CYC <- CYC + cycles. -/
def retire (cycles : Nat) : Result → Result
  | .next s => .next (s.addCycles cycles)
  | .fault f => .fault f
  | .refused r => .refused r

end Sys2Proof.Machine
end

