-- ==== Sys2Proof/Machine/Operands.lean ====
section
/-! DEFINITION. The addressing-mode resolver (spec/40_addressing_modes.md) and the operand of an operation. A resolver runs
with the operand bytes already fetched (they are in the instruction) and PC past them, as R86 orders it. -/

namespace Sys2Proof.Machine

/-- A 16-bit pointer at a zero-page address p, low byte read first (R109, R110): the high byte is at (p + 1) modulo 256, or
at the next address when ZP_PTR_WRAP is false (R6). -/
def readZpPointer (p : Byte) (s : State) : Addr × State :=
  let (lo, s1) := busRead (zext16 p) s
  let (hi, s2) := busRead (if s.cfg.zpPtrWrap then zext16 (p + 1#8) else zext16 p + 1#16) s1
  (joinBytes hi lo, s2)

/-- The 16-bit pointer of Indirect (R108), low byte read first: a pointer whose low byte is 0xFF takes its high byte from the
start of the same page. -/
def readPagePointer (ptr : Addr) (s : State) : Addr × State :=
  let (lo, s1) := busRead ptr s
  let (hi, s2) := busRead (if loByte ptr = 0xFF#8 then ptr &&& 0xFF00#16 else ptr + 1#16) s1
  (joinBytes hi lo, s2)

/-- Resolve(mode) (R100 to R113): the effective address, and the state after the resolver's pointer reads. For Immediate it
is the operand byte's own address, which PC has just passed (R101); Accumulator resolves as Implied, 0x0000 (R113). -/
def resolve (o : Operand) (s : State) : Addr × State :=
  match o with
  | .acc => (0, s)
  | .imm _ => (s.pc - 1#16, s)
  | .zp z => (zext16 z, s)
  | .zpx z => (zext16 (z + s.x), s)
  | .zpy z => (zext16 (z + s.y), s)
  | .abs a => (a, s)
  | .absx a => (a + zext16 s.x, s)
  | .absy a => (a + zext16 s.y, s)
  | .ind p => readPagePointer p s
  | .izx z => readZpPointer (z + s.x) s
  | .izy z =>
    let (base, s1) := readZpPointer z s
    (base + zext16 s.y, s1)

/-- The byte an operation reads: the literal of Immediate, which the step has read from its own address in the instruction
stream (R101; log 9), A for Accumulator (R169), else BusRead(ea). -/
def readOperand (o : Operand) (s : State) : Byte × State :=
  match o with
  | .imm v => (v, s)
  | .acc => (s.a, s)
  | o =>
    let (ea, s1) := resolve o s
    busRead ea s1

/-- The store of STA, STX, STY (R120): one BusWrite(ea, v) and no read of ea. -/
def writeOperand (o : Operand) (v : Byte) (s : State) : State :=
  let (ea, s1) := resolve o s
  busWrite ea v s1

/-- A read-modify-write operation (R144, R169): one read, one write of the result at the same address, then the flags; on A
itself for Accumulator. -/
def modifyOperand (f : Byte → Flags → Byte × Flags) (o : Operand) (s : State) : State :=
  match o with
  | .acc =>
    let (v, p) := f s.a s.p
    (s.setA v).setP p
  | o =>
    let (ea, s1) := resolve o s
    let (m, s2) := busRead ea s1
    let (v, p) := f m s2.p
    (busWrite ea v s2).setP p

end Sys2Proof.Machine
end

