-- ==== Sys2Proof/Machine/Arithmetic.lean ====
section
/-! DEFINITION. Arithmetic (spec/42_arithmetic.md R140 to R149). -/

namespace Sys2Proof.Machine

/-! ## Add and subtract with carry (R140) -/

/-- ADC (R141): A, C, V, Z, N from A + M + C, with the decimal correction when D = 1. -/
def execAdc (o : Operand) (s : State) : Result :=
  let (m, s1) := readOperand o s
  let out := aluAdc s1.cfg.decimal s1.p.d s1.p.c s1.a m
  .next ((s1.setA out.r).setP (s1.p.setAlu out))

/-- SBC (R142): A, C, V, Z, N from A - M - (1 - C), with the decimal correction when D = 1. -/
def execSbc (o : Operand) (s : State) : Result :=
  let (m, s1) := readOperand o s
  let out := aluSbc s1.cfg.decimal s1.p.d s1.p.c s1.a m
  .next ((s1.setA out.r).setP (s1.p.setAlu out))

/-! ## Increment and decrement (R143): Z and N only -/

/-- INC (R144): one read, one write of the byte plus one. -/
def execInc (o : Operand) (s : State) : Result := .next (modifyOperand incByte o s)

/-- DEC (R145): one read, one write of the byte less one. -/
def execDec (o : Operand) (s : State) : Result := .next (modifyOperand decByte o s)

/-- INX (R146): X <- X + 1 modulo 256; SetZN. -/
def execInx (s : State) : Result :=
  let (v, p) := incByte s.x s.p
  .next ((s.setX v).setP p)

/-- INY (R147): Y <- Y + 1 modulo 256; SetZN. -/
def execIny (s : State) : Result :=
  let (v, p) := incByte s.y s.p
  .next ((s.setY v).setP p)

/-- DEX (R148): X <- X - 1 modulo 256; SetZN. -/
def execDex (s : State) : Result :=
  let (v, p) := decByte s.x s.p
  .next ((s.setX v).setP p)

/-- DEY (R149): Y <- Y - 1 modulo 256; SetZN. -/
def execDey (s : State) : Result :=
  let (v, p) := decByte s.y s.p
  .next ((s.setY v).setP p)

end Sys2Proof.Machine
end

