-- ==== Sys2Proof/Machine/Branch.lean ====
section
/-! DEFINITION. Conditional branches (spec/48_branches.md R230 to R238). -/

namespace Sys2Proof.Machine

/-- BCC (R231): branch when C = 0. -/
def execBcc (d : Byte) (s : State) : Result := .next (branchIf (!s.p.c) d s)

/-- BCS (R232): branch when C = 1. -/
def execBcs (d : Byte) (s : State) : Result := .next (branchIf s.p.c d s)

/-- BEQ (R233): branch when Z = 1. -/
def execBeq (d : Byte) (s : State) : Result := .next (branchIf s.p.z d s)

/-- BNE (R234): branch when Z = 0. -/
def execBne (d : Byte) (s : State) : Result := .next (branchIf (!s.p.z) d s)

/-- BMI (R235): branch when N = 1. -/
def execBmi (d : Byte) (s : State) : Result := .next (branchIf s.p.n d s)

/-- BPL (R236): branch when N = 0. -/
def execBpl (d : Byte) (s : State) : Result := .next (branchIf (!s.p.n) d s)

/-- BVC (R237): branch when V = 0. -/
def execBvc (d : Byte) (s : State) : Result := .next (branchIf (!s.p.v) d s)

/-- BVS (R238): branch when V = 1. -/
def execBvs (d : Byte) (s : State) : Result := .next (branchIf s.p.v d s)

end Sys2Proof.Machine
end

