-- ==== Sys2Proof/Machine/Compare.lean ====
section
/-! DEFINITION. Compares (spec/44_compare.md R180 to R183). -/

namespace Sys2Proof.Machine

/-- CMP (R181): C, Z, N from A - M; no register. -/
def execCmp (o : Operand) (s : State) : Result :=
  let (m, s1) := readOperand o s
  .next (s1.setP (Flags.compare s1.a m s1.p))

/-- CPX (R182): C, Z, N from X - M; no register. -/
def execCpx (o : Operand) (s : State) : Result :=
  let (m, s1) := readOperand o s
  .next (s1.setP (Flags.compare s1.x m s1.p))

/-- CPY (R183): C, Z, N from Y - M; no register. -/
def execCpy (o : Operand) (s : State) : Result :=
  let (m, s1) := readOperand o s
  .next (s1.setP (Flags.compare s1.y m s1.p))

end Sys2Proof.Machine
end

