-- ==== Sys2Proof/Machine/Jump.lean ====
section
/-! DEFINITION. Jumps and subroutines (spec/46_jump_subroutine.md R200 to R203). -/

namespace Sys2Proof.Machine

/-- JMP (R200): PC <- ea, for Absolute the operand and for Indirect the 16-bit value at the pointer. -/
def execJmp (o : Operand) (s : State) : Result :=
  let (ea, s1) := resolve o s
  .next (s1.setPC ea)

/-- JSR (R201), with PC the address of the JSR + 3: push PC - 1, high byte first; PC <- target. -/
def execJsr (target : Addr) (s : State) : Result := .next ((pushWord (s.pc - 1#16) s).setPC target)

/-- RTS (R202): pull a 16-bit value, low byte first; PC <- that value + 1. -/
def execRts (s : State) : Result :=
  let (ret, s1) := pullWord s
  .next (s1.setPC (ret + 1#16))

end Sys2Proof.Machine
end

