-- ==== Sys2Proof/Machine/LoadStore.lean ====
section
/-! DEFINITION. Loads, stores and transfers (spec/41_load_store_transfer.md R120 to R132). -/

namespace Sys2Proof.Machine

/-! ## Loads (R120) -/

/-- LDA (R121): A <- the operand byte; SetZN. -/
def execLda (o : Operand) (s : State) : Result :=
  let (v, s1) := readOperand o s
  .next ((s1.setA v).setP (s1.p.setZN v))

/-- LDX (R122): X <- the operand byte; SetZN. -/
def execLdx (o : Operand) (s : State) : Result :=
  let (v, s1) := readOperand o s
  .next ((s1.setX v).setP (s1.p.setZN v))

/-- LDY (R123): Y <- the operand byte; SetZN. -/
def execLdy (o : Operand) (s : State) : Result :=
  let (v, s1) := readOperand o s
  .next ((s1.setY v).setP (s1.p.setZN v))

/-! ## Stores (R120): no register and no flag -/

/-- STA (R124): BusWrite(ea, A). -/
def execSta (o : Operand) (s : State) : Result := .next (writeOperand o s.a s)

/-- STX (R125): BusWrite(ea, X). -/
def execStx (o : Operand) (s : State) : Result := .next (writeOperand o s.x s)

/-- STY (R126): BusWrite(ea, Y). -/
def execSty (o : Operand) (s : State) : Result := .next (writeOperand o s.y s)

/-! ## Transfers -/

/-- TAX (R127): X <- A; SetZN. -/
def execTax (s : State) : Result := .next ((s.setX s.a).setP (s.p.setZN s.a))

/-- TAY (R128): Y <- A; SetZN. -/
def execTay (s : State) : Result := .next ((s.setY s.a).setP (s.p.setZN s.a))

/-- TXA (R129): A <- X; SetZN. -/
def execTxa (s : State) : Result := .next ((s.setA s.x).setP (s.p.setZN s.x))

/-- TYA (R130): A <- Y; SetZN. -/
def execTya (s : State) : Result := .next ((s.setA s.y).setP (s.p.setZN s.y))

/-- TSX (R131): X <- SP; SetZN. -/
def execTsx (s : State) : Result := .next ((s.setX s.sp).setP (s.p.setZN s.sp))

/-- TXS (R132): SP <- X; no flag, unless TXS_SETS_ZN is true (R6). -/
def execTxs (s : State) : Result :=
  .next ((s.setSP s.x).setP (if s.cfg.txsSetsZN then s.p.setZN s.x else s.p))

end Sys2Proof.Machine
end

