-- ==== Sys2Proof/Machine/LogicShift.lean ====
section
/-! DEFINITION. Logic, bit test, shifts and rotates (spec/43_logic_shift.md R160 to R169). -/

namespace Sys2Proof.Machine

/-! ## Logic (R160): A, Z and N -/

/-- AND (R161): A <- A AND M; SetZN. -/
def execAnd (o : Operand) (s : State) : Result :=
  let (m, s1) := readOperand o s
  let r := s1.a &&& m
  .next ((s1.setA r).setP (s1.p.setZN r))

/-- ORA (R162): A <- A OR M; SetZN. -/
def execOra (o : Operand) (s : State) : Result :=
  let (m, s1) := readOperand o s
  let r := s1.a ||| m
  .next ((s1.setA r).setP (s1.p.setZN r))

/-- EOR (R163): A <- A XOR M; SetZN. -/
def execEor (o : Operand) (s : State) : Result :=
  let (m, s1) := readOperand o s
  let r := s1.a ^^^ m
  .next ((s1.setA r).setP (s1.p.setZN r))

/-- BIT (R164): Z from A AND M, N and V from bits 7 and 6 of M; nothing else. -/
def execBit (o : Operand) (s : State) : Result :=
  let (m, s1) := readOperand o s
  .next (s1.setP (Flags.bitTest s1.a m s1.p))

/-! ## Shifts and rotates (R169): C, Z and N -/

/-- ASL (R165): shift left, on A or on memory. -/
def execAsl (o : Operand) (s : State) : Result := .next (modifyOperand aslByte o s)

/-- LSR (R166): logical shift right, on A or on memory. -/
def execLsr (o : Operand) (s : State) : Result := .next (modifyOperand lsrByte o s)

/-- ROL (R167): rotate left through Carry, on A or on memory. -/
def execRol (o : Operand) (s : State) : Result := .next (modifyOperand rolByte o s)

/-- ROR (R168): rotate right through Carry, on A or on memory. -/
def execRor (o : Operand) (s : State) : Result := .next (modifyOperand rorByte o s)

end Sys2Proof.Machine
end

