-- ==== Sys2Proof/Machine/Stack.lean ====
section
/-! DEFINITION. Stack instructions (spec/45_stack.md R190 to R194). -/

namespace Sys2Proof.Machine

/-- PHA (R191): Push(A). -/
def execPha (s : State) : Result := .next (push s.a s)

/-- PLA (R192): A <- Pull(); SetZN. -/
def execPla (s : State) : Result :=
  let (v, s1) := pull s
  .next ((s1.setA v).setP (s1.p.setZN v))

/-- PHP (R193): push the status byte with the Break latch's own value in bit 4. -/
def execPhp (s : State) : Result := .next (push (statusByte s.p.b s.p) s)

/-- PLP (R194): all seven flags from the pulled byte. -/
def execPlp (s : State) : Result :=
  let (v, s1) := pull s
  .next (s1.setP (flagsOfStatus v))

end Sys2Proof.Machine
end

