-- ==== Sys2Proof/Machine/System.lean ====
section
/-! DEFINITION. BRK, RTI, NOP, the flag instructions and ILLEGAL (spec/47_system_flags.md R210 to R226; spec/60_exceptions.md R241,
R244, R245). -/

namespace Sys2Proof.Machine

/-! ## Software interrupt and return -/

/-- BRK (R210): takes the core's one trap. -/
def execBrk (s : State) : Result := .next (takeBreak s)

/-- RTI (R211): returns from it. -/
def execRti (s : State) : Result := .next (returnFromBreak s)

/-! ## No-operation and flag instructions -/

/-- NOP (R212): nothing. -/
def execNop (s : State) : Result := .next s

/-- CLC (R213): P.C <- 0. -/
def execClc (s : State) : Result := .next (s.setP { s.p with c := false })

/-- SEC (R214): P.C <- 1. -/
def execSec (s : State) : Result := .next (s.setP { s.p with c := true })

/-- CLI (R215): P.I <- 0. -/
def execCli (s : State) : Result := .next (s.setP { s.p with i := false })

/-- SEI (R216): P.I <- 1. -/
def execSei (s : State) : Result := .next (s.setP { s.p with i := true })

/-- CLD (R217): P.D <- 0. -/
def execCld (s : State) : Result := .next (s.setP { s.p with d := false })

/-- SED (R218): P.D <- 1. -/
def execSed (s : State) : Result := .next (s.setP { s.p with d := true })

/-- CLV (R219): P.V <- 0. -/
def execClv (s : State) : Result := .next (s.setP { s.p with v := false })

/-! ## Unpopulated slots -/

/-- ILLEGAL (R226), with PC the address of the opcode byte + 1: nothing changes, and under ILLEGAL_POLICY = signal the step
reports IllegalOpcode with the byte and the address it was fetched from. -/
def execIllegal (op : Byte) (s : State) : Result :=
  match s.cfg.illegalPolicy with
  | .signal => .fault (.illegalOpcode op (s.pc - 1#16))
  | .nop => .next s

end Sys2Proof.Machine
end

