-- ==== Sys2Proof/Syntax.lean ====
section
/-! DEFINITION. The instructions (spec/30_encoding.md R82, R83): one constructor per mnemonic of the opcode table. The
rows of one mnemonic differ in their addressing mode alone, which is the constructor's `Operand`; the rows of ILLEGAL
differ in their byte alone, which is its argument. -/

namespace Sys2Proof

/-- The 56 mnemonics of R82 and the pseudo-operation ILLEGAL of R226. -/
inductive Instr where
  -- loads, stores, transfers: 41_load_store_transfer.md
  | lda (o : Operand)
  | ldx (o : Operand)
  | ldy (o : Operand)
  | sta (o : Operand)
  | stx (o : Operand)
  | sty (o : Operand)
  | tax
  | tay
  | txa
  | tya
  | tsx
  | txs
  -- arithmetic: 42_arithmetic.md
  | adc (o : Operand)
  | sbc (o : Operand)
  | inc (o : Operand)
  | dec (o : Operand)
  | inx
  | iny
  | dex
  | dey
  -- logic, bit test, shifts, rotates: 43_logic_shift.md
  | and (o : Operand)
  | ora (o : Operand)
  | eor (o : Operand)
  | bit (o : Operand)
  | asl (o : Operand)
  | lsr (o : Operand)
  | rol (o : Operand)
  | ror (o : Operand)
  -- compares: 44_compare.md
  | cmp (o : Operand)
  | cpx (o : Operand)
  | cpy (o : Operand)
  -- stack: 45_stack.md
  | pha
  | pla
  | php
  | plp
  -- jumps and subroutines: 46_jump_subroutine.md
  | jmp (o : Operand)
  | jsr (target : Addr)
  | rts
  -- break, return, no-operation, flags: 47_system_flags.md
  | brk
  | rti
  | nop
  | clc
  | sec
  | cli
  | sei
  | cld
  | sed
  | clv
  -- branches, each with its signed displacement byte: 48_branches.md
  | bcc (d : Byte)
  | bcs (d : Byte)
  | beq (d : Byte)
  | bne (d : Byte)
  | bmi (d : Byte)
  | bpl (d : Byte)
  | bvc (d : Byte)
  | bvs (d : Byte)
  /-- An unpopulated slot, with its opcode byte (R83, R226). -/
  | illegal (op : Byte)
deriving DecidableEq, Repr

end Sys2Proof
end

