-- ==== Sys2Proof/WellFormed.lean ====
section
/-! DEFINITION. Which instructions exist: for each mnemonic the addressing modes it has (the table by mnemonic of
spec/30_encoding.md R82), and for ILLEGAL the 105 unpopulated byte values of R83. -/

namespace Sys2Proof

/-- The modes of ADC AND CMP EOR LDA ORA SBC. -/
def aluModes : List Mode := [.imm, .zp, .zpx, .abs, .absx, .absy, .izx, .izy]

/-- The modes of STA: the same but Immediate. -/
def staModes : List Mode := [.zp, .zpx, .abs, .absx, .absy, .izx, .izy]

/-- The modes of ASL LSR ROL ROR. -/
def shiftModes : List Mode := [.acc, .zp, .zpx, .abs, .absx]

/-- The modes of INC and DEC. -/
def incModes : List Mode := [.zp, .zpx, .abs, .absx]

/-- The modes of CPX and CPY. -/
def cpxModes : List Mode := [.imm, .zp, .abs]

/-- The 105 unpopulated byte values, in the order R83 lists them. -/
def unpopulated : List Byte :=
  [0x02, 0x03, 0x04, 0x07, 0x0B, 0x0C, 0x0F, 0x12, 0x13, 0x14, 0x17, 0x1A, 0x1B, 0x1C, 0x1F] ++
  [0x22, 0x23, 0x27, 0x2B, 0x2F, 0x32, 0x33, 0x34, 0x37, 0x3A, 0x3B, 0x3C, 0x3F] ++
  [0x42, 0x43, 0x44, 0x47, 0x4B, 0x4F, 0x52, 0x53, 0x54, 0x57, 0x5A, 0x5B, 0x5C, 0x5F] ++
  [0x62, 0x63, 0x64, 0x67, 0x6B, 0x6F, 0x72, 0x73, 0x74, 0x77, 0x7A, 0x7B, 0x7C, 0x7F] ++
  [0x80, 0x82, 0x83, 0x87, 0x89, 0x8B, 0x8F, 0x92, 0x93, 0x97, 0x9B, 0x9C, 0x9E, 0x9F] ++
  [0xA3, 0xA7, 0xAB, 0xAF, 0xB2, 0xB3, 0xB7, 0xBB, 0xBF] ++
  [0xC2, 0xC3, 0xC7, 0xCB, 0xCF, 0xD2, 0xD3, 0xD4, 0xD7, 0xDA, 0xDB, 0xDC, 0xDF] ++
  [0xE2, 0xE3, 0xE7, 0xEB, 0xEF, 0xF2, 0xF3, 0xF4, 0xF7, 0xFA, 0xFB, 0xFC, 0xFF]

/-- The instruction has a row in the opcode table (R82, R83). -/
def Instr.wf : Instr → Bool
  | .lda o => aluModes.contains o.mode
  | .ldx o => [Mode.imm, .zp, .zpy, .abs, .absy].contains o.mode
  | .ldy o => [Mode.imm, .zp, .zpx, .abs, .absx].contains o.mode
  | .sta o => staModes.contains o.mode
  | .stx o => [Mode.zp, .zpy, .abs].contains o.mode
  | .sty o => [Mode.zp, .zpx, .abs].contains o.mode
  | .tax => true
  | .tay => true
  | .txa => true
  | .tya => true
  | .tsx => true
  | .txs => true
  | .adc o => aluModes.contains o.mode
  | .sbc o => aluModes.contains o.mode
  | .inc o => incModes.contains o.mode
  | .dec o => incModes.contains o.mode
  | .inx => true
  | .iny => true
  | .dex => true
  | .dey => true
  | .and o => aluModes.contains o.mode
  | .ora o => aluModes.contains o.mode
  | .eor o => aluModes.contains o.mode
  | .bit o => [Mode.zp, .abs].contains o.mode
  | .asl o => shiftModes.contains o.mode
  | .lsr o => shiftModes.contains o.mode
  | .rol o => shiftModes.contains o.mode
  | .ror o => shiftModes.contains o.mode
  | .cmp o => aluModes.contains o.mode
  | .cpx o => cpxModes.contains o.mode
  | .cpy o => cpxModes.contains o.mode
  | .pha => true
  | .pla => true
  | .php => true
  | .plp => true
  | .jmp o => [Mode.abs, .ind].contains o.mode
  | .jsr _ => true
  | .rts => true
  | .brk => true
  | .rti => true
  | .nop => true
  | .clc => true
  | .sec => true
  | .cli => true
  | .sei => true
  | .cld => true
  | .sed => true
  | .clv => true
  | .bcc _ => true
  | .bcs _ => true
  | .beq _ => true
  | .bne _ => true
  | .bmi _ => true
  | .bpl _ => true
  | .bvc _ => true
  | .bvs _ => true
  | .illegal op => unpopulated.contains op

end Sys2Proof
end

