-- ==== Sys2Proof/Decode.lean ====
section
/-! DEFINITION. The decoder and, after it, the encoder (spec/30_encoding.md R80 to R86). The decoder reads the opcode
matrix of R82 and the encoder the table by mnemonic of the same rule: two transcriptions, which the round trip compares. -/

namespace Sys2Proof

/-! ## The opcode table -/

/-- One populated slot: the opcode byte, the mode, the base cycle count (R284), and the instruction that the slot and its
operand bytes 1 and 2 stand for. -/
structure OpcodeRow where
  opcode : Byte
  mode : Mode
  cycles : Nat
  build : Byte → Byte → Instr

/-- Implied: no operand byte (R111). -/
def rowImp (op : Byte) (cycles : Nat) (i : Instr) : OpcodeRow := ⟨op, .imp, cycles, fun _ _ => i⟩
/-- Accumulator: no operand byte (R113). -/
def rowAcc (op : Byte) (cycles : Nat) (c : Operand → Instr) : OpcodeRow := ⟨op, .acc, cycles, fun _ _ => c .acc⟩
/-- Immediate (R101). -/
def rowImm (op : Byte) (cycles : Nat) (c : Operand → Instr) : OpcodeRow := ⟨op, .imm, cycles, fun b _ => c (.imm b)⟩
/-- Zero-Page (R102). -/
def rowZp (op : Byte) (cycles : Nat) (c : Operand → Instr) : OpcodeRow := ⟨op, .zp, cycles, fun b _ => c (.zp b)⟩
/-- Zero-Page,X (R103). -/
def rowZpx (op : Byte) (cycles : Nat) (c : Operand → Instr) : OpcodeRow := ⟨op, .zpx, cycles, fun b _ => c (.zpx b)⟩
/-- Zero-Page,Y (R104). -/
def rowZpy (op : Byte) (cycles : Nat) (c : Operand → Instr) : OpcodeRow := ⟨op, .zpy, cycles, fun b _ => c (.zpy b)⟩
/-- Absolute: low byte first (R105, R81). -/
def rowAbs (op : Byte) (cycles : Nat) (c : Operand → Instr) : OpcodeRow :=
  ⟨op, .abs, cycles, fun lo hi => c (.abs (joinBytes hi lo))⟩
/-- Absolute,X (R106). -/
def rowAbsx (op : Byte) (cycles : Nat) (c : Operand → Instr) : OpcodeRow :=
  ⟨op, .absx, cycles, fun lo hi => c (.absx (joinBytes hi lo))⟩
/-- Absolute,Y (R107). -/
def rowAbsy (op : Byte) (cycles : Nat) (c : Operand → Instr) : OpcodeRow :=
  ⟨op, .absy, cycles, fun lo hi => c (.absy (joinBytes hi lo))⟩
/-- Indirect (R108). -/
def rowInd (op : Byte) (cycles : Nat) (c : Operand → Instr) : OpcodeRow :=
  ⟨op, .ind, cycles, fun lo hi => c (.ind (joinBytes hi lo))⟩
/-- Indexed-Indirect (R109). -/
def rowIzx (op : Byte) (cycles : Nat) (c : Operand → Instr) : OpcodeRow := ⟨op, .izx, cycles, fun b _ => c (.izx b)⟩
/-- Indirect-Indexed (R110). -/
def rowIzy (op : Byte) (cycles : Nat) (c : Operand → Instr) : OpcodeRow := ⟨op, .izy, cycles, fun b _ => c (.izy b)⟩
/-- Relative: the raw displacement byte (R112). -/
def rowRel (op : Byte) (cycles : Nat) (c : Byte → Instr) : OpcodeRow := ⟨op, .rel, cycles, fun d _ => c d⟩
/-- Absolute with a jump target, the one form of JSR (R201). -/
def rowTarget (op : Byte) (cycles : Nat) (c : Addr → Instr) : OpcodeRow :=
  ⟨op, .abs, cycles, fun lo hi => c (joinBytes hi lo)⟩

/-- Row 0x of the matrix of R82. -/
def opcodeRows0x : List OpcodeRow :=
  [rowImp 0x00 7 .brk, rowIzx 0x01 6 .ora, rowZp 0x05 3 .ora, rowZp 0x06 5 .asl,
   rowImp 0x08 3 .php, rowImm 0x09 2 .ora, rowAcc 0x0A 2 .asl, rowAbs 0x0D 4 .ora,
   rowAbs 0x0E 6 .asl]

/-- Row 1x of the matrix of R82. -/
def opcodeRows1x : List OpcodeRow :=
  [rowRel 0x10 2 .bpl, rowIzy 0x11 5 .ora, rowZpx 0x15 4 .ora, rowZpx 0x16 6 .asl,
   rowImp 0x18 2 .clc, rowAbsy 0x19 4 .ora, rowAbsx 0x1D 4 .ora, rowAbsx 0x1E 7 .asl]

/-- Row 2x of the matrix of R82. -/
def opcodeRows2x : List OpcodeRow :=
  [rowTarget 0x20 6 .jsr, rowIzx 0x21 6 .and, rowZp 0x24 3 .bit, rowZp 0x25 3 .and,
   rowZp 0x26 5 .rol, rowImp 0x28 4 .plp, rowImm 0x29 2 .and, rowAcc 0x2A 2 .rol,
   rowAbs 0x2C 4 .bit, rowAbs 0x2D 4 .and, rowAbs 0x2E 6 .rol]

/-- Row 3x of the matrix of R82. -/
def opcodeRows3x : List OpcodeRow :=
  [rowRel 0x30 2 .bmi, rowIzy 0x31 5 .and, rowZpx 0x35 4 .and, rowZpx 0x36 6 .rol,
   rowImp 0x38 2 .sec, rowAbsy 0x39 4 .and, rowAbsx 0x3D 4 .and, rowAbsx 0x3E 7 .rol]

/-- Row 4x of the matrix of R82. -/
def opcodeRows4x : List OpcodeRow :=
  [rowImp 0x40 6 .rti, rowIzx 0x41 6 .eor, rowZp 0x45 3 .eor, rowZp 0x46 5 .lsr,
   rowImp 0x48 3 .pha, rowImm 0x49 2 .eor, rowAcc 0x4A 2 .lsr, rowAbs 0x4C 3 .jmp,
   rowAbs 0x4D 4 .eor, rowAbs 0x4E 6 .lsr]

/-- Row 5x of the matrix of R82. -/
def opcodeRows5x : List OpcodeRow :=
  [rowRel 0x50 2 .bvc, rowIzy 0x51 5 .eor, rowZpx 0x55 4 .eor, rowZpx 0x56 6 .lsr,
   rowImp 0x58 2 .cli, rowAbsy 0x59 4 .eor, rowAbsx 0x5D 4 .eor, rowAbsx 0x5E 7 .lsr]

/-- Row 6x of the matrix of R82. -/
def opcodeRows6x : List OpcodeRow :=
  [rowImp 0x60 6 .rts, rowIzx 0x61 6 .adc, rowZp 0x65 3 .adc, rowZp 0x66 5 .ror,
   rowImp 0x68 4 .pla, rowImm 0x69 2 .adc, rowAcc 0x6A 2 .ror, rowInd 0x6C 5 .jmp,
   rowAbs 0x6D 4 .adc, rowAbs 0x6E 6 .ror]

/-- Row 7x of the matrix of R82. -/
def opcodeRows7x : List OpcodeRow :=
  [rowRel 0x70 2 .bvs, rowIzy 0x71 5 .adc, rowZpx 0x75 4 .adc, rowZpx 0x76 6 .ror,
   rowImp 0x78 2 .sei, rowAbsy 0x79 4 .adc, rowAbsx 0x7D 4 .adc, rowAbsx 0x7E 7 .ror]

/-- Row 8x of the matrix of R82. -/
def opcodeRows8x : List OpcodeRow :=
  [rowIzx 0x81 6 .sta, rowZp 0x84 3 .sty, rowZp 0x85 3 .sta, rowZp 0x86 3 .stx,
   rowImp 0x88 2 .dey, rowImp 0x8A 2 .txa, rowAbs 0x8C 4 .sty, rowAbs 0x8D 4 .sta,
   rowAbs 0x8E 4 .stx]

/-- Row 9x of the matrix of R82. -/
def opcodeRows9x : List OpcodeRow :=
  [rowRel 0x90 2 .bcc, rowIzy 0x91 6 .sta, rowZpx 0x94 4 .sty, rowZpx 0x95 4 .sta,
   rowZpy 0x96 4 .stx, rowImp 0x98 2 .tya, rowAbsy 0x99 5 .sta, rowImp 0x9A 2 .txs,
   rowAbsx 0x9D 5 .sta]

/-- Row Ax of the matrix of R82. -/
def opcodeRowsAx : List OpcodeRow :=
  [rowImm 0xA0 2 .ldy, rowIzx 0xA1 6 .lda, rowImm 0xA2 2 .ldx, rowZp 0xA4 3 .ldy,
   rowZp 0xA5 3 .lda, rowZp 0xA6 3 .ldx, rowImp 0xA8 2 .tay, rowImm 0xA9 2 .lda,
   rowImp 0xAA 2 .tax, rowAbs 0xAC 4 .ldy, rowAbs 0xAD 4 .lda, rowAbs 0xAE 4 .ldx]

/-- Row Bx of the matrix of R82. -/
def opcodeRowsBx : List OpcodeRow :=
  [rowRel 0xB0 2 .bcs, rowIzy 0xB1 5 .lda, rowZpx 0xB4 4 .ldy, rowZpx 0xB5 4 .lda,
   rowZpy 0xB6 4 .ldx, rowImp 0xB8 2 .clv, rowAbsy 0xB9 4 .lda, rowImp 0xBA 2 .tsx,
   rowAbsx 0xBC 4 .ldy, rowAbsx 0xBD 4 .lda, rowAbsy 0xBE 4 .ldx]

/-- Row Cx of the matrix of R82. -/
def opcodeRowsCx : List OpcodeRow :=
  [rowImm 0xC0 2 .cpy, rowIzx 0xC1 6 .cmp, rowZp 0xC4 3 .cpy, rowZp 0xC5 3 .cmp,
   rowZp 0xC6 5 .dec, rowImp 0xC8 2 .iny, rowImm 0xC9 2 .cmp, rowImp 0xCA 2 .dex,
   rowAbs 0xCC 4 .cpy, rowAbs 0xCD 4 .cmp, rowAbs 0xCE 6 .dec]

/-- Row Dx of the matrix of R82. -/
def opcodeRowsDx : List OpcodeRow :=
  [rowRel 0xD0 2 .bne, rowIzy 0xD1 5 .cmp, rowZpx 0xD5 4 .cmp, rowZpx 0xD6 6 .dec,
   rowImp 0xD8 2 .cld, rowAbsy 0xD9 4 .cmp, rowAbsx 0xDD 4 .cmp, rowAbsx 0xDE 7 .dec]

/-- Row Ex of the matrix of R82. -/
def opcodeRowsEx : List OpcodeRow :=
  [rowImm 0xE0 2 .cpx, rowIzx 0xE1 6 .sbc, rowZp 0xE4 3 .cpx, rowZp 0xE5 3 .sbc,
   rowZp 0xE6 5 .inc, rowImp 0xE8 2 .inx, rowImm 0xE9 2 .sbc, rowImp 0xEA 2 .nop,
   rowAbs 0xEC 4 .cpx, rowAbs 0xED 4 .sbc, rowAbs 0xEE 6 .inc]

/-- Row Fx of the matrix of R82. -/
def opcodeRowsFx : List OpcodeRow :=
  [rowRel 0xF0 2 .beq, rowIzy 0xF1 5 .sbc, rowZpx 0xF5 4 .sbc, rowZpx 0xF6 6 .inc,
   rowImp 0xF8 2 .sed, rowAbsy 0xF9 4 .sbc, rowAbsx 0xFD 4 .sbc, rowAbsx 0xFE 7 .inc]

/-- The 151 populated slots (R82). -/
def opcodeTable : List OpcodeRow :=
  opcodeRows0x ++ opcodeRows1x ++ opcodeRows2x ++ opcodeRows3x ++ opcodeRows4x ++
  opcodeRows5x ++ opcodeRows6x ++ opcodeRows7x ++ opcodeRows8x ++ opcodeRows9x ++
  opcodeRowsAx ++ opcodeRowsBx ++ opcodeRowsCx ++ opcodeRowsDx ++ opcodeRowsEx ++
  opcodeRowsFx

/-- The populated slot of an opcode byte, if it is one. -/
def lookupOpcode (op : Byte) : Option OpcodeRow := opcodeTable.find? (fun r => r.opcode == op)

/-- How many operand bytes follow the opcode byte in each mode (R80, R115). -/
def Mode.operandBytes : Mode → Nat
  | .imp => 0
  | .acc => 0
  | .imm => 1
  | .zp => 1
  | .zpx => 1
  | .zpy => 1
  | .abs => 2
  | .absx => 2
  | .absy => 2
  | .ind => 2
  | .izx => 1
  | .izy => 1
  | .rel => 1

/-- How many operand bytes follow this opcode byte: none for an unpopulated slot (R84, R226). -/
def operandCount (op : Byte) : Nat :=
  match lookupOpcode op with
  | some r => r.mode.operandBytes
  | none => 0

/-- BASE_CYCLES of an opcode byte (R284): 0 for an unpopulated slot. -/
def baseCycles (op : Byte) : Nat :=
  match lookupOpcode op with
  | some r => r.cycles
  | none => 0

/-! ## The decoder -/

/-- The instruction of an opcode byte and the operand bytes after it; a byte the form does not have is given as 0. Total:
an unpopulated slot is ILLEGAL (R84). -/
def decodeOp (op b1 b2 : Byte) : Instr :=
  match lookupOpcode op with
  | some r => r.build b1 b2
  | none => .illegal op

/-- Why a byte list holds no instruction. No opcode byte is a reason: every value decodes (R84). -/
inductive DecodeError where
  /-- There is no byte. -/
  | noBytes
  /-- The list ends before the operand bytes of this opcode byte. -/
  | truncated (op : Byte)
deriving DecidableEq, Repr

/-- The instruction at the head of a byte list, byte 0 at the lowest address, and the bytes after it. -/
def decode : List Byte → Except DecodeError (Instr × List Byte)
  | [] => .error .noBytes
  | op :: rest =>
    if rest.length < operandCount op then .error (.truncated op)
    else
      let operands := rest.take (operandCount op)
      .ok (decodeOp op (operands.getD 0 0) (operands.getD 1 0), rest.drop (operandCount op))

/-- The bytes of a word of `nbits` bits as spec/opcode_table.json numbers them (bit 0 the least significant bit of the first
byte), the bits above `nbits` zero, as the three bytes of the longest instruction. -/
def tableBytes (nbits w : Nat) : List Byte :=
  [BitVec.ofNat 8 (w % 2 ^ nbits), BitVec.ofNat 8 (w % 2 ^ nbits / 256), BitVec.ofNat 8 (w % 2 ^ nbits / 65536)]

/-- The instruction the decoder reads from a word numbered as the opcode table numbers it. -/
def decodeTableWord (nbits w : Nat) : Option Instr :=
  match decode (tableBytes nbits w) with
  | .ok (i, _) => some i
  | .error _ => none

/-! ## The encoder -/

/-- The operand bytes of an operand, low byte first (R80, R81). -/
def Operand.bytes : Operand → List Byte
  | .acc => []
  | .imm v => [v]
  | .zp z => [z]
  | .zpx z => [z]
  | .zpy z => [z]
  | .abs a => [loByte a, hiByte a]
  | .absx a => [loByte a, hiByte a]
  | .absy a => [loByte a, hiByte a]
  | .ind p => [loByte p, hiByte p]
  | .izx z => [z]
  | .izy z => [z]

/-- One line of the table by mnemonic: the opcode byte that stands under the operand's mode, then the operand bytes. -/
def encodeForm (o : Operand) (line : List (Mode × Byte)) : Option (List Byte) :=
  match line.lookup o.mode with
  | some op => some (op :: o.bytes)
  | none => none

/-- The bytes of a well-formed instruction, from the table by mnemonic of R82; none for an ill-formed one. -/
def encode : Instr → Option (List Byte)
  | .lda o => encodeForm o [(Mode.imm, 0xA9), (.zp, 0xA5), (.zpx, 0xB5), (.abs, 0xAD), (.absx, 0xBD), (.absy, 0xB9), (.izx, 0xA1), (.izy, 0xB1)]
  | .ldx o => encodeForm o [(Mode.imm, 0xA2), (.zp, 0xA6), (.zpy, 0xB6), (.abs, 0xAE), (.absy, 0xBE)]
  | .ldy o => encodeForm o [(Mode.imm, 0xA0), (.zp, 0xA4), (.zpx, 0xB4), (.abs, 0xAC), (.absx, 0xBC)]
  | .sta o => encodeForm o [(Mode.zp, 0x85), (.zpx, 0x95), (.abs, 0x8D), (.absx, 0x9D), (.absy, 0x99), (.izx, 0x81), (.izy, 0x91)]
  | .stx o => encodeForm o [(Mode.zp, 0x86), (.zpy, 0x96), (.abs, 0x8E)]
  | .sty o => encodeForm o [(Mode.zp, 0x84), (.zpx, 0x94), (.abs, 0x8C)]
  | .tax => some [0xAA]
  | .tay => some [0xA8]
  | .txa => some [0x8A]
  | .tya => some [0x98]
  | .tsx => some [0xBA]
  | .txs => some [0x9A]
  | .adc o => encodeForm o [(Mode.imm, 0x69), (.zp, 0x65), (.zpx, 0x75), (.abs, 0x6D), (.absx, 0x7D), (.absy, 0x79), (.izx, 0x61), (.izy, 0x71)]
  | .sbc o => encodeForm o [(Mode.imm, 0xE9), (.zp, 0xE5), (.zpx, 0xF5), (.abs, 0xED), (.absx, 0xFD), (.absy, 0xF9), (.izx, 0xE1), (.izy, 0xF1)]
  | .inc o => encodeForm o [(Mode.zp, 0xE6), (.zpx, 0xF6), (.abs, 0xEE), (.absx, 0xFE)]
  | .dec o => encodeForm o [(Mode.zp, 0xC6), (.zpx, 0xD6), (.abs, 0xCE), (.absx, 0xDE)]
  | .inx => some [0xE8]
  | .iny => some [0xC8]
  | .dex => some [0xCA]
  | .dey => some [0x88]
  | .and o => encodeForm o [(Mode.imm, 0x29), (.zp, 0x25), (.zpx, 0x35), (.abs, 0x2D), (.absx, 0x3D), (.absy, 0x39), (.izx, 0x21), (.izy, 0x31)]
  | .ora o => encodeForm o [(Mode.imm, 0x09), (.zp, 0x05), (.zpx, 0x15), (.abs, 0x0D), (.absx, 0x1D), (.absy, 0x19), (.izx, 0x01), (.izy, 0x11)]
  | .eor o => encodeForm o [(Mode.imm, 0x49), (.zp, 0x45), (.zpx, 0x55), (.abs, 0x4D), (.absx, 0x5D), (.absy, 0x59), (.izx, 0x41), (.izy, 0x51)]
  | .bit o => encodeForm o [(Mode.zp, 0x24), (.abs, 0x2C)]
  | .asl o => encodeForm o [(Mode.acc, 0x0A), (.zp, 0x06), (.zpx, 0x16), (.abs, 0x0E), (.absx, 0x1E)]
  | .lsr o => encodeForm o [(Mode.acc, 0x4A), (.zp, 0x46), (.zpx, 0x56), (.abs, 0x4E), (.absx, 0x5E)]
  | .rol o => encodeForm o [(Mode.acc, 0x2A), (.zp, 0x26), (.zpx, 0x36), (.abs, 0x2E), (.absx, 0x3E)]
  | .ror o => encodeForm o [(Mode.acc, 0x6A), (.zp, 0x66), (.zpx, 0x76), (.abs, 0x6E), (.absx, 0x7E)]
  | .cmp o => encodeForm o [(Mode.imm, 0xC9), (.zp, 0xC5), (.zpx, 0xD5), (.abs, 0xCD), (.absx, 0xDD), (.absy, 0xD9), (.izx, 0xC1), (.izy, 0xD1)]
  | .cpx o => encodeForm o [(Mode.imm, 0xE0), (.zp, 0xE4), (.abs, 0xEC)]
  | .cpy o => encodeForm o [(Mode.imm, 0xC0), (.zp, 0xC4), (.abs, 0xCC)]
  | .pha => some [0x48]
  | .pla => some [0x68]
  | .php => some [0x08]
  | .plp => some [0x28]
  | .jmp o => encodeForm o [(Mode.abs, 0x4C), (.ind, 0x6C)]
  | .jsr target => some [0x20, loByte target, hiByte target]
  | .rts => some [0x60]
  | .brk => some [0x00]
  | .rti => some [0x40]
  | .nop => some [0xEA]
  | .clc => some [0x18]
  | .sec => some [0x38]
  | .cli => some [0x58]
  | .sei => some [0x78]
  | .cld => some [0xD8]
  | .sed => some [0xF8]
  | .clv => some [0xB8]
  | .bcc d => some [0x90, d]
  | .bcs d => some [0xB0, d]
  | .beq d => some [0xF0, d]
  | .bne d => some [0xD0, d]
  | .bmi d => some [0x30, d]
  | .bpl d => some [0x10, d]
  | .bvc d => some [0x50, d]
  | .bvs d => some [0x70, d]
  | .illegal op => if unpopulated.contains op then some [op] else none

end Sys2Proof
end

