-- ==== Sys2Proof/Machine/Fetch.lean ====
section
/-! DEFINITION. Fetching an instruction's bytes (spec/30_encoding.md R86, R80; spec/40_addressing_modes.md R115), and placing
an instruction where the next step fetches it. -/

namespace Sys2Proof.Machine

/-- The bytes of the instruction at PC, and the state once they are fetched. An operand byte the form does not have is 0. -/
structure Fetched where
  op : Byte
  b1 : Byte
  b2 : Byte
  state : State
deriving DecidableEq, Repr

/-- Fetch the opcode byte, then the operand bytes its form has, low byte first, each by one BusRead that advances PC. -/
def fetchInstr (s : State) : Fetched :=
  let (op, s1) := fetch8 s
  match operandCount op with
  | 0 => ⟨op, 0, 0, s1⟩
  | 1 =>
    let (b1, s2) := fetch8 s1
    ⟨op, b1, 0, s2⟩
  | _ =>
    let (b1, s2) := fetch8 s1
    let (b2, s3) := fetch8 s2
    ⟨op, b1, b2, s3⟩

/-- The three bytes from a on are backed by the array: none is in the I/O range (R51). -/
def fetchableAt (a : Addr) : Bool := !inIoRange a && !inIoRange (a + 1#16) && !inIoRange (a + 2#16)

/-- Where `placeBytes` puts an instruction: at PC, or at 0x0600 when PC stands where the bus would not read the array. -/
def placeAddr (pc : Addr) : Addr := if fetchableAt pc then pc else 0x0600#16

/-- The three bytes written to the backing array from a on, as Load writes it (R272), each address modulo 65536. -/
def placeBytes (a : Addr) : List Byte → Memory → Memory
  | [], m => m
  | v :: vs, m => placeBytes (a + 1#16) vs (m.write a.toNat v)

end Sys2Proof.Machine
end

