-- ==== Sys2Proof/Machine/Step.lean ====
section
/-! DEFINITION. Step, the single-step primitive (spec/30_encoding.md R86). -/

namespace Sys2Proof.Machine

/-- One step: fetch the whole instruction, run it, add its base cycle count. Before Boot and after the host has stopped the
loop a step has no meaning (R271, R251). -/
def step (s : State) : Host.Outcome State Fault Refusal :=
  match s.run with
  | .constructed => .refused .stepBeforeBoot
  | .halted => .refused .stepAfterHalt
  | .running =>
    let f := fetchInstr s
    retire (baseCycles f.op) (exec (decodeOp f.op f.b1 f.b2) f.state)

/-- The state with the instruction of a table word placed where the next step fetches it: three bytes in the backing array at
PC, the machine running. Only a PC in the I/O range, where no instruction can be placed, is moved, to 0x0600. -/
def State.withFetchWord (s : State) (nbits w : Nat) : State :=
  { s with
    pc := placeAddr s.pc
    mem := placeBytes (placeAddr s.pc) (tableBytes nbits w) s.mem
    run := .running }

end Sys2Proof.Machine
end

