-- ==== Sys2Proof/Machine/HostOps.lean ====
section
/-! DEFINITION. The host interface (spec/60_exceptions.md R252; spec/70_reset_and_hazards.md R270 to R273): what the host can
do to the core, each only between two steps. -/

namespace Sys2Proof.Machine

/-- A vector slot: the 16-bit little-endian value at a and a + 1 (R25, R55), read from the array itself. -/
def vectorAt (m : Memory) (a : Nat) : Addr := joinBytes (m.read (a + 1)) (m.read a)

/-- Load(offset, bytes) (R272): the bytes into the backing array directly, past the bus decode. A blob that would run past
0xFFFF is refused. A load that fails midway is the load of the bytes copied so far. -/
def hostLoad (offset : Addr) (bytes : List Byte) (s : State) : Result :=
  if offset.toNat + bytes.length ≤ 65536 then .next (s.setMem (s.mem.writeAll offset.toNat bytes))
  else .refused .loadPastEnd

/-- The state after Boot (R273): the three vectors cached, PC <- VEC_RESET, the machine running (R31). -/
def bootState (s : State) : State :=
  let vec : Vectors :=
    { nmi := vectorAt s.mem 0xFFFA, reset := vectorAt s.mem 0xFFFC, brk := vectorAt s.mem 0xFFFE }
  { s with vec := vec, pc := vec.reset, run := .running }

/-- Boot (R273), of a machine in the spec's Reset state. A running core cannot be reset again (R270), nor a halted one resumed
or reset, other than by constructing again (R251): such a Boot is refused. Log 12. -/
def hostBoot (s : State) : Result :=
  match s.run with
  | .constructed => .next (bootState s)
  | .running => .refused .bootOutsideReset
  | .halted => .refused .bootOutsideReset

/-- KeyPressed(code) (R252): KEY_CODE <- code[6:0], KEY_PENDING <- 1. A new key overwrites an unread one. -/
def hostKeyPressed (code : Byte) (s : State) : State :=
  s.setIo { s.io with keyCode := code.setWidth 7, keyPending := true }

/-- The host stops calling Step (R251): the run state is Halted for good, and all other state survives. It is the only thing
that ends a run of the hardware (R282; the convention for runs of a counted number of steps is log 22). -/
def hostStop (s : State) : State := { s with run := .halted }

/-- The renderer's direct read of MEM[a] (R66): no bus side effect. -/
def hostReadMem (a : Addr) (s : State) : Byte := s.mem.read a.toNat

/-- The renderer's reads of the display flags: text, mixed, high-resolution (R252). -/
def hostReadDisplay (s : State) : Bool × Bool × Bool := (s.io.text, s.io.mixed, s.io.hires)

/-- The frame loop's read of CYC (R252). -/
def hostReadCycles (s : State) : Nat := s.cyc

/-- The state the core is left in by a step that reported IllegalOpcode (R226): the opcode byte is consumed, and its fetch
may have touched the I/O latches. A host that goes on calls Step on this state. -/
def stateAfterIllegal (s : State) : State := (fetchInstr s).state

/-- The host operations that change the core (R252). Construct is `State.construct`. -/
inductive HostOp where
  | load (offset : Addr) (bytes : List Byte)
  | boot
  | step
  | keyPressed (code : Byte)
  | stop
deriving DecidableEq, Repr

/-- One host operation. -/
def hostDo (op : HostOp) (s : State) : Result :=
  match op with
  | .load offset bytes => hostLoad offset bytes s
  | .boot => hostBoot s
  | .step => Sys2Proof.Machine.step s
  | .keyPressed code => .next (hostKeyPressed code s)
  | .stop => .next (hostStop s)

/-- Host operations in order (R271), to the first fault or refusal. -/
def hostRun : List HostOp → State → Result
  | [], s => .next s
  | op :: ops, s =>
    match hostDo op s with
    | .next s1 => hostRun ops s1
    | .fault f => .fault f
    | .refused r => .refused r

end Sys2Proof.Machine
end

