-- ==== Sys2Proof/Safety.lean ====
section
/-! DEFINITION. What counts as a safe run, in the terms claims use: the states a machine reaches by steps, and running a
number of steps with no IllegalOpcode (spec/60_exceptions.md R240, R241) and no step out of the lifecycle
(spec/70_reset_and_hazards.md R271).

DESIGN CHOICE, safe (log 22): spec/70_reset_and_hazards.md R282 leaves the end of a run to the model as a convention outside the
hardware. Here a run ends after the number of steps the claim names, or at the host's stop; no PC value and no JMP to itself
ends one. -/

namespace Sys2Proof

/-- `Reaches s t`: some number of steps, none included, leads from s to t. No state ends a run by itself (R282, log 22). -/
inductive Reaches : Machine.State → Machine.State → Prop where
  | refl (s : Machine.State) : Reaches s s
  | tail {s t u : Machine.State} : Reaches s t → Machine.step t = .next u → Reaches s u

/-- k steps from s all complete. That the run ends after k steps, with k named by the claim, is the model's choice: R282
leaves the end of a run open (DESIGN CHOICE, log 22). -/
def SafeFor (k : Nat) (s : Machine.State) : Prop := ∃ t, Host.Core.run core k s = .next t

/-- An invariant of the machine: every step that completes keeps it. -/
def StepKeeps (Inv : Machine.State → Prop) : Prop :=
  ∀ s t : Machine.State, Inv s → Machine.step s = .next t → Inv t

end Sys2Proof
end

