-- ==== Sys2Proof/Certificates/Slice0/Obligations.lean ====
section
/-! DEFINITION. The statements for the provers. First the vocabulary they share, written from the rules of spec/ and not from
the model's own definitions; then one definition per obligation. Where a statement speaks of `exec`, PC is already the
address of the next instruction in memory order, as R86 has the operation see it. -/

namespace Sys2Proof.Claims

open Sys2Proof.Machine

/-! ## Vocabulary -/

/-- Flags with Z and N set from a byte (R13): Z when it is 0, N when it is 128 or more. -/
def zn (v : Byte) (p : Flags) : Flags := { p with z := decide (v.toNat = 0), n := decide (128 ≤ v.toNat) }

/-- The byte a bus read of `a` gives (R51). -/
def readByte (s : State) (a : Addr) : Byte :=
  if a.toNat < 0xC000 ∨ 0xD000 ≤ a.toNat then s.mem.read a.toNat
  else if a.toNat = 0xC000 ∧ s.io.keyPending = true then BitVec.ofNat 8 (0x80 + s.io.keyCode.toNat)
  else 0

/-- The I/O latches after one bus access at `a` (R51 to R53); `on` says whether an access of its kind triggers the display
switches. -/
def ioAfter (on : Bool) (a : Addr) (io : IoLatches) : IoLatches where
  keyCode := io.keyCode
  keyPending := io.keyPending && decide (a.toNat ≠ 0xC010)
  text := if on = true ∧ (a.toNat = 0xC050 ∨ a.toNat = 0xC051) then decide (a.toNat = 0xC051) else io.text
  mixed := if on = true ∧ (a.toNat = 0xC052 ∨ a.toNat = 0xC053) then decide (a.toNat = 0xC053) else io.mixed
  hires := if on = true ∧ (a.toNat = 0xC056 ∨ a.toNat = 0xC057) then decide (a.toNat = 0xC057) else io.hires

/-- The state after one byte of the instruction stream has been fetched (R11): PC one further, and the read's side effect. -/
def afterFetch (s : State) : State := { s with pc := s.pc + 1#16, io := ioAfter s.cfg.switchOnRead s.pc s.io }

/-- `m'` is `m` after a bus write of `v` at `a` (R52, R54): every other address, and every address from 0xC000 up, reads as
before, and below 0xC000 the address written reads as v (for a memory in canonical form, the invariant of
`StepKeepsMemoryCanonical`). -/
def Stored (m m' : Memory) (a : Addr) (v : Byte) : Prop :=
  (∀ b, b ≠ a.toNat ∨ 0xC000 ≤ b → m'.read b = m.read b) ∧
  (m.wf → a.toNat < 0xC000 → m'.read a.toNat = v)

/-- The byte an operation reads through an operand of any form but Indirect: the literal, A, or the byte at the effective
address. -/
def operandByte (o : Operand) (s : State) : Byte :=
  match o with
  | .imm v => v
  | .acc => s.a
  | o => readByte s (resolve o s).1

/-- The I/O latches after that read. -/
def operandIo (o : Operand) (s : State) : IoLatches :=
  match o with
  | .imm _ => s.io
  | .acc => s.io
  | o => ioAfter s.cfg.switchOnRead (resolve o s).1 s.io

/-- The I/O latches after a read-modify-write at `a`: a read, then a write. -/
def modifyIo (a : Addr) (s : State) : IoLatches :=
  ioAfter s.cfg.switchOnWrite a (ioAfter s.cfg.switchOnRead a s.io)

/-- An "Encoding" line of the spec: the instruction has exactly the modes of the line, and under each mode the opcode byte
followed by the operand bytes decodes to it. -/
def Forms (c : Operand → Instr) (line : List (Mode × Byte)) : Prop :=
  ∀ o : Operand,
    (c o).wf = (line.lookup o.mode).isSome ∧
    ∀ op, line.lookup o.mode = some op → ∀ rest, decode (op :: (o.bytes ++ rest)) = .ok (c o, rest)

/-- A one-byte instruction's opcode. -/
def OneByte (i : Instr) (op : Byte) : Prop := i.wf = true ∧ ∀ rest, decode (op :: rest) = .ok (i, rest)

/-- The flags of P as R13 orders the status byte's bits. -/
def statusSum (b : Bool) (p : Flags) : Nat :=
  p.n.toNat * 0x80 + p.v.toNat * 0x40 + 0x20 + b.toNat * 0x10 + p.d.toNat * 0x08 + p.i.toNat * 0x04 +
    p.z.toNat * 0x02 + p.c.toNat * 0x01

/-- The address in page 1 that SP = sp points at (R21). -/
def stackCell (sp : Byte) : Nat := 0x0100 + sp.toNat

/-- The decimal value of a byte's two digits (R16). -/
def bcdValue (v : Byte) : Nat := v.toNat / 16 * 10 + v.toNat % 16

/-- Both digits are at most 9 (R16). -/
def IsBcd (v : Byte) : Prop := v.toNat / 16 ≤ 9 ∧ v.toNat % 16 ≤ 9

/-- The byte whose two digits are n, for n below 100. -/
def bcdByte (n : Nat) : Byte := BitVec.ofNat 8 (n / 10 * 16 + n % 10)

/-- A signed sum is outside -128 to 127. -/
def SignedOverflow (n : Int) : Prop := n < -128 ∨ 127 < n

/-- ASL, LSR, ROL, ROR on a byte m with Carry c (R165 to R168): the result byte and the new Carry. -/
def aslOut (m : Byte) (_c : Bool) : Byte × Bool := (BitVec.ofNat 8 (2 * m.toNat), decide (128 ≤ m.toNat))
def lsrOut (m : Byte) (_c : Bool) : Byte × Bool := (BitVec.ofNat 8 (m.toNat / 2), decide (m.toNat % 2 = 1))
def rolOut (m : Byte) (c : Bool) : Byte × Bool := (BitVec.ofNat 8 (2 * m.toNat + c.toNat), decide (128 ≤ m.toNat))
def rorOut (m : Byte) (c : Bool) : Byte × Bool :=
  (BitVec.ofNat 8 (m.toNat / 2 + 128 * c.toNat), decide (m.toNat % 2 = 1))

/-- The shift or rotate `c` on A: A, C, Z and N, and nothing else. -/
def ShiftsA (c : Operand → Instr) (out : Byte → Bool → Byte × Bool) : Prop :=
  ∀ s : State, exec (c .acc) s =
    .next { s with a := (out s.a s.p.c).1, p := zn (out s.a s.p.c).1 { s.p with c := (out s.a s.p.c).2 } }

/-- The read-modify-write instruction `c` in its memory forms: the byte at the effective address is replaced by the first part
of `out`, Carry becomes the second, Z and N follow the byte, and nothing else changes. -/
def ModifiesMemory (c : Operand → Instr) (out : Byte → Bool → Byte × Bool) : Prop :=
  ∀ (o : Operand) (s : State), (c o).wf = true → o ≠ .acc →
    ∃ t, exec (c o) s = .next t ∧
      t = { s with
        mem := t.mem
        p := zn (out (readByte s (resolve o s).1) s.p.c).1 { s.p with c := (out (readByte s (resolve o s).1) s.p.c).2 }
        io := modifyIo (resolve o s).1 s } ∧
      Stored s.mem t.mem (resolve o s).1 (out (readByte s (resolve o s).1) s.p.c).1

/-- The store instruction `c` of a register `src`: one byte written at the effective address, and nothing else changes. -/
def StoresRegister (c : Operand → Instr) (src : State → Byte) : Prop :=
  ∀ (o : Operand) (s : State), (c o).wf = true →
    ∃ t, exec (c o) s = .next t ∧
      t = { s with mem := t.mem, io := ioAfter s.cfg.switchOnWrite (resolve o s).1 s.io } ∧
      Stored s.mem t.mem (resolve o s).1 (src s)

/-- The compare `c` of a register `reg` (R180): C, Z and N, and nothing else. -/
def ComparesRegister (c : Operand → Instr) (reg : State → Byte) : Prop :=
  ∀ (o : Operand) (s : State), (c o).wf = true →
    exec (c o) s = .next { s with
      p := zn (BitVec.ofNat 8 ((reg s).toNat + 256 - (operandByte o s).toNat))
        { s.p with c := decide ((operandByte o s).toNat ≤ (reg s).toNat) }
      io := operandIo o s }

/-- The branch `c` under the condition `cond` (R230): the signed displacement is added to PC, or nothing changes at all. -/
def BranchesWhen (c : Byte → Instr) (cond : Flags → Prop) : Prop :=
  ∀ (d : Byte) (s : State),
    (cond s.p → exec (c d) s = .next { s with pc := BitVec.ofInt 16 ((s.pc.toNat : Int) + d.toInt) }) ∧
    (¬ cond s.p → exec (c d) s = .next s)

/-- R284's table of base cycles, by group and mode. -/
def readCycles : Mode → Nat
  | .imm => 2
  | .zp => 3
  | .izx => 6
  | .izy => 5
  | _ => 4

/-- The row of STA, STX, STY. -/
def storeCycles : Mode → Nat
  | .zp => 3
  | .absx => 5
  | .absy => 5
  | .izx => 6
  | .izy => 6
  | _ => 4

/-- The rows of the shifts and rotates and of INC and DEC. -/
def modifyCycles : Mode → Nat
  | .acc => 2
  | .zp => 5
  | .absx => 7
  | _ => 6

/-- R284's table for an instruction. -/
def cyclesOf : Instr → Nat
  | .lda o | .ldx o | .ldy o | .adc o | .sbc o | .and o | .ora o | .eor o | .cmp o | .cpx o | .cpy o | .bit o =>
    readCycles o.mode
  | .sta o | .stx o | .sty o => storeCycles o.mode
  | .asl o | .lsr o | .rol o | .ror o | .inc o | .dec o => modifyCycles o.mode
  | .inx | .iny | .dex | .dey | .tax | .tay | .txa | .tya | .tsx | .txs => 2
  | .clc | .sec | .cli | .sei | .cld | .sed | .clv | .nop => 2
  | .pha | .php => 3
  | .pla | .plp => 4
  | .jmp o => if o.mode = .ind then 5 else 3
  | .jsr _ => 6
  | .rts | .rti => 6
  | .brk => 7
  | .bcc _ | .bcs _ | .beq _ | .bne _ | .bmi _ | .bpl _ | .bvc _ | .bvs _ => 2
  | .illegal _ => 0

end Sys2Proof.Claims

open Sys2Proof Sys2Proof.Machine Sys2Proof.Claims

/-! ## Reset and the host interface -/

/-- R40, column "after Boot" with nothing loaded. A, X, Y, SP and CYC are the spec's; the flags are the instance D5 recommends
(log 3); KEY_PENDING = 0 is D7's; PC and the vectors are what R273 gives when the vector slots hold INIT_MEM's zero, and that
memory reads as zero everywhere is the model's choice (log 2). No value is stated for KEY_CODE and the display flags (log 4), the
parameters (log 7) and the run state (log 11), which the model chooses; Boot of State.construct gives State.reset whatever they are. -/
def Obligations.ResetStateValues : Prop :=
  State.reset.a = 0 ∧ State.reset.x = 0 ∧ State.reset.y = 0 ∧ State.reset.sp = 0xFF#8 ∧ State.reset.cyc = 0 ∧
  State.reset.io.keyPending = false ∧ State.reset.p = ⟨false, false, false, false, true, false, false⟩ ∧
  (∀ a, State.reset.mem.read a = 0) ∧ State.reset.pc = 0x0000#16 ∧
  hostBoot State.construct = .next State.reset ∧
  State.construct.a = 0 ∧ State.construct.x = 0 ∧ State.construct.y = 0 ∧ State.construct.sp = 0xFF#8

/-- The invariant of `StepKeepsMemoryCanonical` holds at reset, and the host's Load keeps it. -/
def Obligations.MemoryCanonicalAtResetAndAfterLoad : Prop :=
  State.reset.mem.wf ∧
  ∀ (offset : Addr) (bytes : List Byte) (s t : State), s.mem.wf → hostLoad offset bytes s = .next t → t.mem.wf

/-- R273: Boot of a constructed machine caches the three little-endian vectors and loads PC from the reset vector, and nothing
else that R273 speaks of changes. The model's choice: that the run state of R31 is a field, which Boot sets to running (log 11),
and that Boot of a running or halted machine is refused (log 12, from R251 and R270). -/
def Obligations.BootCachesVectorsAndLoadsPc : Prop :=
  ∀ s : State,
    let word := fun a : Nat => BitVec.ofNat 16 ((s.mem.read (a + 1)).toNat * 256 + (s.mem.read a).toNat)
    (s.run = .constructed → hostBoot s =
      .next { s with vec := ⟨word 0xFFFA, word 0xFFFC, word 0xFFFE⟩, pc := word 0xFFFC, run := .running }) ∧
    (s.run ≠ .constructed → hostBoot s = .refused .bootOutsideReset)

/-- R272: a load that fits copies every byte into the array, at 0xC000 and above too, and changes nothing else; one that would
run past 0xFFFF is refused (D27). -/
def Obligations.LoadCopiesBytesPastTheBusDecode : Prop :=
  ∀ (offset : Addr) (bytes : List Byte) (s : State),
    (offset.toNat + bytes.length ≤ 65536 →
      ∃ t, hostLoad offset bytes s = .next t ∧ t = { s with mem := t.mem } ∧
        (∀ b, b < offset.toNat ∨ offset.toNat + bytes.length ≤ b → t.mem.read b = s.mem.read b) ∧
        (s.mem.wf → ∀ k (hk : k < bytes.length), t.mem.read (offset.toNat + k) = bytes[k])) ∧
    (65536 < offset.toNat + bytes.length → hostLoad offset bytes s = .refused .loadPastEnd)

/-- R252: KeyPressed keeps the low seven bits of the code (D26) and sets the pending flag, over an unread key too; the next
read of 0xC000 gives the code with bit 7 set, again and again until the strobe is cleared. -/
def Obligations.KeyPressedIsReadUntilTheStrobe : Prop :=
  ∀ (code : Byte) (s : State),
    (hostKeyPressed code s).io.keyPending = true ∧
    (hostKeyPressed code s).io.keyCode.toNat = code.toNat % 128 ∧
    hostKeyPressed code s = { s with io := (hostKeyPressed code s).io } ∧
    busRead 0xC000#16 (hostKeyPressed code s) = (BitVec.ofNat 8 (0x80 + code.toNat % 128), hostKeyPressed code s) ∧
    (busRead 0xC000#16 (busRead 0xC010#16 (hostKeyPressed code s)).2).1 = 0 ∧
    (busRead 0xC000#16 (busWrite 0xC010#16 code (hostKeyPressed code s))).1 = 0

/-- R271: a step before Boot has no meaning. R251, R252: stopping the loop changes no state but the run state, which becomes
Halted, and no host operation but constructing again leaves Halted. The model's choice: that the run state is a field and that a
step of a halted machine is refused (log 11), and which operations a halted machine still answers (log 12). -/
def Obligations.StepOutsideTheLifecycleIsRefused : Prop :=
  (∀ s : State, s.run = .constructed → step s = .refused .stepBeforeBoot) ∧
  (∀ s : State, s.run = .halted → step s = .refused .stepAfterHalt) ∧
  (∀ s : State, hostStop s = { s with run := .halted }) ∧
  (∀ (op : HostOp) (s t : State), s.run = .halted → hostDo op s = .next t → t.run = .halted) ∧
  State.construct.run = .constructed ∧ State.reset.run = .running

/-! ## The status byte, the bus, the stack -/

/-- R13: SetZN, StatusByte and SetStatus. -/
def Obligations.StatusByteAndFlagPrimitives : Prop :=
  (∀ (v : Byte) (p : Flags), p.setZN v = zn v p) ∧
  (∀ (b : Bool) (p : Flags), (statusByte b p).toNat = statusSum b p) ∧
  (∀ v : Byte, flagsOfStatus v =
    ⟨v.toNat.testBit 7, v.toNat.testBit 6, v.toNat.testBit 4, v.toNat.testBit 3, v.toNat.testBit 2, v.toNat.testBit 1,
      v.toNat.testBit 0⟩) ∧
  ∀ (b : Bool) (p : Flags), flagsOfStatus (statusByte b p) = { p with b := b }

/-- R51: the byte a read gives, and its side effect on the I/O latches, for every address. -/
def Obligations.BusReadDecodesTheAddress : Prop :=
  ∀ (a : Addr) (s : State),
    busRead a s = (readByte s a, { s with io := ioAfter s.cfg.switchOnRead a s.io })

/-- R52, R54: what a write stores, and its side effect on the I/O latches, for every address. -/
def Obligations.BusWriteDecodesTheAddress : Prop :=
  ∀ (a : Addr) (v : Byte) (s : State), ∃ m,
    busWrite a v s = { s with mem := m, io := ioAfter s.cfg.switchOnWrite a s.io } ∧ Stored s.mem m a v ∧
      (0xC000 ≤ a.toNat → m = s.mem)

/-- R12, R21, R190: a push stores at SP and then decrements it, a pull increments it and then loads, modulo 256 in page 1. -/
def Obligations.StackPrimitives : Prop :=
  (∀ (v : Byte) (s : State), ∃ m, push v s = { s with mem := m, sp := s.sp - 1#8 } ∧
    (∀ b, b ≠ stackCell s.sp → m.read b = s.mem.read b) ∧ (s.mem.wf → m.read (stackCell s.sp) = v)) ∧
  (∀ s : State, pull s = (s.mem.read (stackCell (s.sp + 1#8)), { s with sp := s.sp + 1#8 })) ∧
  ∀ (v : Byte) (s : State), s.mem.wf → (pull (push v s)).1 = v ∧ (pull (push v s)).2.sp = s.sp

/-! ## The addressing modes -/

/-- R101 to R107, R109, R110: the effective address of each mode but Indirect, as a number, and that resolving it changes
nothing. Without ZP_PTR_WRAP the pointer's second byte is at the next address, which can be 0x0100. -/
def Obligations.EffectiveAddresses : Prop :=
  ∀ (s : State) (z v : Byte) (a : Addr),
    let next := fun p : Nat => if s.cfg.zpPtrWrap = true then (p + 1) % 256 else p + 1
    let pointer := fun p : Nat => (s.mem.read (next p)).toNat * 256 + (s.mem.read p).toNat
    resolve (.imm v) s = (s.pc - 1#16, s) ∧
    resolve (.zp z) s = (BitVec.ofNat 16 z.toNat, s) ∧
    resolve (.zpx z) s = (BitVec.ofNat 16 ((z.toNat + s.x.toNat) % 256), s) ∧
    resolve (.zpy z) s = (BitVec.ofNat 16 ((z.toNat + s.y.toNat) % 256), s) ∧
    resolve (.abs a) s = (a, s) ∧
    resolve (.absx a) s = (BitVec.ofNat 16 (a.toNat + s.x.toNat), s) ∧
    resolve (.absy a) s = (BitVec.ofNat 16 (a.toNat + s.y.toNat), s) ∧
    resolve (.izx z) s = (BitVec.ofNat 16 (pointer ((z.toNat + s.x.toNat) % 256)), s) ∧
    resolve (.izy z) s = (BitVec.ofNat 16 (pointer z.toNat + s.y.toNat), s)

/-- R108: the Indirect mode with the page-boundary bug, and the two pointer reads' side effects in order. -/
def Obligations.IndirectModeHasThePageBug : Prop :=
  ∀ (p : Addr) (s : State),
    let second : Addr := if p.toNat % 256 = 255 then BitVec.ofNat 16 (p.toNat - 255) else BitVec.ofNat 16 (p.toNat + 1)
    resolve (.ind p) s =
      (BitVec.ofNat 16 ((readByte s second).toNat * 256 + (readByte s p).toNat),
        { s with io := ioAfter s.cfg.switchOnRead second (ioAfter s.cfg.switchOnRead p s.io) })

/-- R100, R113, R120, R169: a memory operand of any form but Indirect is read once, by one bus read at its effective address, and A
from no address. The model's choice: an Immediate literal is in the instruction, read once by the step's fetch from the address
that R101 has the operation read, so that reading it here changes nothing (log 9). Indirect, which JMP alone has, is
`IndirectModeHasThePageBug` and `JmpWritesPc`. -/
def Obligations.OperandIsReadOnce : Prop :=
  ∀ (o : Operand) (s : State), o.mode ≠ .ind →
    readOperand o s = (operandByte o s, { s with io := operandIo o s })

/-! ## Encodings -/

/-- Decoding the bytes of any well-formed instruction gives it back, with every operand, whatever follows (R80 to R82). -/
def Obligations.DecodeOfEncodeIsTheInstruction : Prop :=
  ∀ i : Instr, i.wf = true → ∃ bs, encode i = some bs ∧ ∀ rest, decode (bs ++ rest) = .ok (i, rest)

/-- What the decoder reads is well formed and its encoding is exactly the bytes consumed: each byte sequence has one meaning
(R83, R84). -/
def Obligations.EncodeOfDecodeIsTheBytes : Prop :=
  ∀ (bs rest : List Byte) (i : Instr), decode bs = .ok (i, rest) →
    i.wf = true ∧ ∃ enc, encode i = some enc ∧ bs = enc ++ rest

/-- R84: the decoder is total on opcode bytes. A byte decodes to a populated slot or to ILLEGAL, never both; ILLEGAL has length
1 and is exactly the bytes R83 lists. The model's choice: a byte list that is too short is an error by name, which no step can
see (log 20). -/
def Obligations.EveryOpcodeByteDecodes : Prop :=
  (∀ op : Byte, (lookupOpcode op).isNone = unpopulated.contains op) ∧
  (∀ op b1 b2 : Byte, op ∈ unpopulated → decode [op, b1, b2] = .ok (.illegal op, [b1, b2])) ∧
  (∀ op b1 b2 : Byte, ∃ i, decode [op, b1, b2] = .ok (i, [b1, b2].drop (operandCount op))) ∧
  (∀ (op : Byte) (rest : List Byte), rest.length < operandCount op → decode (op :: rest) = .error (.truncated op)) ∧
  decode [] = .error .noBytes ∧ opcodeTable.length = 151 ∧ unpopulated.length = 105

/-- A few words of R85's table and of the examples of the instruction rules, written out from the spec. The last two are words as
the opcode table numbers them: that the bits above nbits count as zero is the model's choice (log 10). -/
def Obligations.SpecWordsDecode : Prop :=
  decode [0xA9#8, 0x44#8] = .ok (.lda (.imm 0x44#8), []) ∧ decode [0x6C#8, 0x97#8, 0x55#8] = .ok (.jmp (.ind 0x5597#16), []) ∧
  decode [0x0A#8] = .ok (.asl .acc, []) ∧ decode [0xB1#8, 0x44#8] = .ok (.lda (.izy 0x44#8), []) ∧
  decode [0x20#8, 0x00#8, 0x07#8] = .ok (.jsr 0x0700#16, []) ∧ decode [0xD0#8, 0xFB#8] = .ok (.bne 0xFB#8, []) ∧
  decode [0x00#8] = .ok (.brk, []) ∧ decode [0x02#8] = .ok (.illegal 0x02#8, []) ∧
  decodeTableWord 24 0x5597006C = some (.jmp (.ind 0x9700#16)) ∧ decodeTableWord 8 0xFFEA = some .nop

/-- R284: the base cycle count of each well-formed instruction's opcode byte is the one the table by group and mode gives. -/
def Obligations.BaseCyclesAreTheGroupTable : Prop :=
  ∀ (i : Instr) (op : Byte) (rest : List Byte), encode i = some (op :: rest) → baseCycles op = cyclesOf i

/-! ## The step -/

/-- R86, R11, R58: a step fetches the opcode byte and then as many bytes as the instruction has, each by one bus read at PC with
that read's side effect, wherever PC stands, and is then the instruction's `exec` and its base cycles. Second clause: when none
of the instruction's bytes is in the I/O range they are the array's, and only PC moves before `exec`. -/
def Obligations.StepRunsTheDecodedInstruction : Prop :=
  (∀ (s : State) (i : Instr) (rest : List Byte), s.run = .running →
    let s1 := afterFetch s
    let s2 := afterFetch s1
    let s3 := afterFetch s2
    decode [readByte s s.pc, readByte s1 s1.pc, readByte s2 s2.pc] = .ok (i, rest) →
    step s = retire (baseCycles (readByte s s.pc))
      (exec i (match rest with
        | [_, _] => s1
        | [_] => s2
        | _ => s3))) ∧
  ∀ (s : State) (i : Instr) (rest : List Byte), s.run = .running →
    decode [s.mem.read s.pc.toNat, s.mem.read (s.pc + 1#16).toNat, s.mem.read (s.pc + 2#16).toNat] = .ok (i, rest) →
    (∀ k, k < 3 - rest.length → inIoRange (s.pc + BitVec.ofNat 16 k) = false) →
    step s = retire (baseCycles (s.mem.read s.pc.toNat))
      (exec i { s with pc := s.pc + BitVec.ofNat 16 (3 - rest.length) })

/-- R58, R281 (a): a fetch is an ordinary bus read. In the I/O range it has the read's side effect and gives 0x00, so the step
is a BRK, unless it reads a pending key at 0xC000. -/
def Obligations.StepInTheIoRangeRunsBrk : Prop :=
  ∀ s : State, s.run = .running → 0xC000 ≤ s.pc.toNat → s.pc.toNat ≤ 0xCFFF →
    ¬ (s.pc.toNat = 0xC000 ∧ s.io.keyPending = true) →
    step s = retire 7 (exec .brk { s with pc := s.pc + 1#16, io := ioAfter s.cfg.switchOnRead s.pc s.io })

/-- R226: an unpopulated opcode byte is consumed, by a fetch with its side effects, and nothing else changes, not even CYC;
under `signal` the step reports IllegalOpcode with the byte and its address. -/
def Obligations.StepOfAnUnpopulatedSlot : Prop :=
  ∀ s : State, s.run = .running → readByte s s.pc ∈ unpopulated →
    stateAfterIllegal s = { s with pc := s.pc + 1#16, io := ioAfter s.cfg.switchOnRead s.pc s.io } ∧
    (s.cfg.illegalPolicy = .signal → step s = .fault (.illegalOpcode (readByte s s.pc) s.pc)) ∧
    (s.cfg.illegalPolicy = .nop → step s = .next (stateAfterIllegal s))

/-- R86: a step of a running machine whose opcode byte is populated completes, and the only other outcome is IllegalOpcode. -/
def Obligations.StepEndsNormallyOrIllegal : Prop :=
  ∀ s : State, s.run = .running →
    (readByte s s.pc ∉ unpopulated → ∃ t, step s = .next t) ∧
    ((∃ t, step s = .next t) ∨ step s = .fault (.illegalOpcode (readByte s s.pc) s.pc))

/-- R86, R285: a step that completes adds exactly the base count of its opcode byte to CYC. -/
def Obligations.StepCountsBaseCyclesOnly : Prop :=
  ∀ s t : State, step s = .next t → t.cyc = s.cyc + baseCycles (readByte s s.pc)

/-! ## Loads, stores, transfers -/

/-- R121 to R123: encodings, the register, Z and N from the byte, and nothing else but the read's own I/O side effect. -/
def Obligations.LoadsWriteTheRegisterAndZN : Prop :=
  Forms .lda [(.imm, 0xA9), (.zp, 0xA5), (.zpx, 0xB5), (.abs, 0xAD), (.absx, 0xBD), (.absy, 0xB9), (.izx, 0xA1), (.izy, 0xB1)] ∧
  Forms .ldx [(.imm, 0xA2), (.zp, 0xA6), (.zpy, 0xB6), (.abs, 0xAE), (.absy, 0xBE)] ∧
  Forms .ldy [(.imm, 0xA0), (.zp, 0xA4), (.zpx, 0xB4), (.abs, 0xAC), (.absx, 0xBC)] ∧
  ∀ (o : Operand) (s : State),
    ((Instr.lda o).wf = true → exec (.lda o) s =
      .next { s with a := operandByte o s, p := zn (operandByte o s) s.p, io := operandIo o s }) ∧
    ((Instr.ldx o).wf = true → exec (.ldx o) s =
      .next { s with x := operandByte o s, p := zn (operandByte o s) s.p, io := operandIo o s }) ∧
    ((Instr.ldy o).wf = true → exec (.ldy o) s =
      .next { s with y := operandByte o s, p := zn (operandByte o s) s.p, io := operandIo o s })

/-- R124 to R126: encodings, one byte stored at the effective address as the bus decodes it, and no register and no flag. -/
def Obligations.StoresWriteOneByte : Prop :=
  Forms .sta [(.zp, 0x85), (.zpx, 0x95), (.abs, 0x8D), (.absx, 0x9D), (.absy, 0x99), (.izx, 0x81), (.izy, 0x91)] ∧
  Forms .stx [(.zp, 0x86), (.zpy, 0x96), (.abs, 0x8E)] ∧
  Forms .sty [(.zp, 0x84), (.zpx, 0x94), (.abs, 0x8C)] ∧
  StoresRegister .sta State.a ∧ StoresRegister .stx State.x ∧ StoresRegister .sty State.y

/-- R127 to R131: encodings, the destination register, Z and N, and nothing else. -/
def Obligations.TransfersCopyAndSetZN : Prop :=
  OneByte .tax 0xAA#8 ∧ OneByte .tay 0xA8#8 ∧ OneByte .txa 0x8A#8 ∧ OneByte .tya 0x98#8 ∧ OneByte .tsx 0xBA#8 ∧
  ∀ s : State,
    exec .tax s = .next { s with x := s.a, p := zn s.a s.p } ∧
    exec .tay s = .next { s with y := s.a, p := zn s.a s.p } ∧
    exec .txa s = .next { s with a := s.x, p := zn s.x s.p } ∧
    exec .tya s = .next { s with a := s.y, p := zn s.y s.p } ∧
    exec .tsx s = .next { s with x := s.sp, p := zn s.sp s.p }

/-- R132: SP from X and nothing else; with the parameter TXS_SETS_ZN (R6) also Z and N. -/
def Obligations.TxsWritesTheStackPointer : Prop :=
  OneByte .txs 0x9A#8 ∧
  ∀ s : State,
    (s.cfg.txsSetsZN = false → exec .txs s = .next { s with sp := s.x }) ∧
    (s.cfg.txsSetsZN = true → exec .txs s = .next { s with sp := s.x, p := zn s.x s.p })

/-! ## Arithmetic -/

/-- R140: whatever the mode and whatever the treatment of what U3 leaves open, ADC and SBC read one byte, write A, C and V, set
Z and N from the new A, and leave B, D, I and everything else alone. -/
def Obligations.AddAndSubtractFrame : Prop :=
  ∀ (o : Operand) (s : State),
    ((Instr.adc o).wf = true → ∃ (r : Byte) (c v : Bool),
      exec (.adc o) s = .next { s with a := r, p := zn r { s.p with c := c, v := v }, io := operandIo o s }) ∧
    ((Instr.sbc o).wf = true → ∃ (r : Byte) (c v : Bool),
      exec (.sbc o) s = .next { s with a := r, p := zn r { s.p with c := c, v := v }, io := operandIo o s })

/-- R141: the encodings and the pseudocode, step by step, where U3 leaves nothing open or the pseudocode's value is taken. -/
def Obligations.AdcFollowsThePseudocode : Prop :=
  Forms .adc [(.imm, 0x69), (.zp, 0x65), (.zpx, 0x75), (.abs, 0x6D), (.absx, 0x7D), (.absy, 0x79), (.izx, 0x61), (.izy, 0x71)] ∧
  ∀ (o : Operand) (s : State), (Instr.adc o).wf = true → (s.p.d = false ∨ s.cfg.decimal = .algorithm) →
    let m := operandByte o s
    let t0 := s.a.toNat + m.toNat + s.p.c.toNat
    let t1 := if s.p.d = true ∧ 9 < s.a.toNat % 16 + m.toNat % 16 + s.p.c.toNat then t0 + 6 else t0
    let t := if s.p.d = true ∧ 0x99 < t1 then t1 + 0x60 else t1
    let r := BitVec.ofNat 8 t
    exec (.adc o) s = .next { s with
      a := r
      p := zn r { s.p with
        c := decide (t / 256 % 2 = 1)
        v := decide (((s.a ^^^ r) &&& (m ^^^ r) &&& 0x80#8) ≠ 0#8) }
      io := operandIo o s }

/-- R142: the encodings and the pseudocode, step by step, where U3 leaves nothing open or the pseudocode's value is taken. -/
def Obligations.SbcFollowsThePseudocode : Prop :=
  Forms .sbc [(.imm, 0xE9), (.zp, 0xE5), (.zpx, 0xF5), (.abs, 0xED), (.absx, 0xFD), (.absy, 0xF9), (.izx, 0xE1), (.izy, 0xF1)] ∧
  ∀ (o : Operand) (s : State), (Instr.sbc o).wf = true → (s.p.d = false ∨ s.cfg.decimal = .algorithm) →
    let m := operandByte o s
    let t := s.a.toNat + (255 - m.toNat) + s.p.c.toNat
    let r1 := if s.p.d = true ∧ s.a.toNat % 16 + s.p.c.toNat < m.toNat % 16 + 1 then t + 250 else t
    let r := BitVec.ofNat 8 (if s.p.d = true ∧ t < 256 then r1 + 160 else r1)
    exec (.sbc o) s = .next { s with
      a := r
      p := zn r { s.p with
        c := decide (256 ≤ t)
        v := decide (((s.a ^^^ r) &&& (~~~m ^^^ r) &&& 0x80#8) ≠ 0#8) }
      io := operandIo o s }

/-- R141 (a): with D = 0, A is the sum modulo 256, C its unsigned overflow, V its signed overflow. -/
def Obligations.BinaryAdcIsAddition : Prop :=
  ∀ (o : Operand) (s : State), (Instr.adc o).wf = true → s.p.d = false →
    let m := operandByte o s
    let sum := s.a.toNat + m.toNat + s.p.c.toNat
    ∃ v, exec (.adc o) s = .next { s with
        a := BitVec.ofNat 8 sum
        p := zn (BitVec.ofNat 8 sum) { s.p with c := decide (255 < sum), v := v }
        io := operandIo o s } ∧
      (v = true ↔ SignedOverflow (s.a.toInt + m.toInt + s.p.c.toNat))

/-- R142 (a): with D = 0, A is A - M - (1 - C) modulo 256, C says that nothing was borrowed, V is the signed overflow. -/
def Obligations.BinarySbcIsSubtraction : Prop :=
  ∀ (o : Operand) (s : State), (Instr.sbc o).wf = true → s.p.d = false →
    let m := operandByte o s
    let diff : Int := (s.a.toNat : Int) - m.toNat - (1 - s.p.c.toNat)
    ∃ v, exec (.sbc o) s = .next { s with
        a := BitVec.ofInt 8 diff
        p := zn (BitVec.ofInt 8 diff) { s.p with c := decide (0 ≤ diff), v := v }
        io := operandIo o s } ∧
      (v = true ↔ SignedOverflow (s.a.toInt - m.toInt - (1 - s.p.c.toNat)))

/-- R141 (b): with D = 1 and valid BCD operands, A is the decimal sum modulo 100 and C says that it reached 100. V is not
spoken of: U3 gives it no decimal meaning. -/
def Obligations.DecimalAdcIsDecimalAddition : Prop :=
  ∀ (o : Operand) (s : State), (Instr.adc o).wf = true → s.p.d = true → IsBcd s.a → IsBcd (operandByte o s) →
    let sum := bcdValue s.a + bcdValue (operandByte o s) + s.p.c.toNat
    ∃ v, exec (.adc o) s = .next { s with
      a := bcdByte (sum % 100)
      p := zn (bcdByte (sum % 100)) { s.p with c := decide (100 ≤ sum), v := v }
      io := operandIo o s }

/-- R142 (c): with D = 1 and valid BCD operands, A is the decimal difference modulo 100 and C says that nothing was borrowed. -/
def Obligations.DecimalSbcIsDecimalSubtraction : Prop :=
  ∀ (o : Operand) (s : State), (Instr.sbc o).wf = true → s.p.d = true → IsBcd s.a → IsBcd (operandByte o s) →
    let diff : Int := (bcdValue s.a : Int) - bcdValue (operandByte o s) - (1 - s.p.c.toNat)
    ∃ v, exec (.sbc o) s = .next { s with
      a := bcdByte (diff % 100).toNat
      p := zn (bcdByte (diff % 100).toNat) { s.p with c := decide (0 ≤ diff), v := v }
      io := operandIo o s }

/-- R144, R145: INC and DEC of memory, at 0xC000 and above too, where the flags still follow the byte that is not stored. -/
def Obligations.IncrementAndDecrementMemory : Prop :=
  Forms .inc [(.zp, 0xE6), (.zpx, 0xF6), (.abs, 0xEE), (.absx, 0xFE)] ∧
  Forms .dec [(.zp, 0xC6), (.zpx, 0xD6), (.abs, 0xCE), (.absx, 0xDE)] ∧
  ModifiesMemory .inc (fun m c => (BitVec.ofNat 8 (m.toNat + 1), c)) ∧
  ModifiesMemory .dec (fun m c => (BitVec.ofNat 8 (m.toNat + 255), c))

/-- R146 to R149: encodings, the register modulo 256, Z and N, and nothing else. -/
def Obligations.IncrementAndDecrementIndex : Prop :=
  OneByte .inx 0xE8#8 ∧ OneByte .iny 0xC8#8 ∧ OneByte .dex 0xCA#8 ∧ OneByte .dey 0x88#8 ∧
  ∀ s : State,
    let up := fun v : Byte => BitVec.ofNat 8 (v.toNat + 1)
    let down := fun v : Byte => BitVec.ofNat 8 (v.toNat + 255)
    exec .inx s = .next { s with x := up s.x, p := zn (up s.x) s.p } ∧
    exec .iny s = .next { s with y := up s.y, p := zn (up s.y) s.p } ∧
    exec .dex s = .next { s with x := down s.x, p := zn (down s.x) s.p } ∧
    exec .dey s = .next { s with y := down s.y, p := zn (down s.y) s.p }

/-! ## Logic, shifts, compares -/

/-- R161 to R163: encodings, A bit by bit, Z and N, and nothing else but the read's own I/O side effect. -/
def Obligations.LogicWritesAAndZN : Prop :=
  Forms .and [(.imm, 0x29), (.zp, 0x25), (.zpx, 0x35), (.abs, 0x2D), (.absx, 0x3D), (.absy, 0x39), (.izx, 0x21), (.izy, 0x31)] ∧
  Forms .ora [(.imm, 0x09), (.zp, 0x05), (.zpx, 0x15), (.abs, 0x0D), (.absx, 0x1D), (.absy, 0x19), (.izx, 0x01), (.izy, 0x11)] ∧
  Forms .eor [(.imm, 0x49), (.zp, 0x45), (.zpx, 0x55), (.abs, 0x4D), (.absx, 0x5D), (.absy, 0x59), (.izx, 0x41), (.izy, 0x51)] ∧
  ∀ (o : Operand) (s : State),
    ((Instr.and o).wf = true → exec (.and o) s =
      .next { s with a := s.a &&& operandByte o s, p := zn (s.a &&& operandByte o s) s.p, io := operandIo o s }) ∧
    ((Instr.ora o).wf = true → exec (.ora o) s =
      .next { s with a := s.a ||| operandByte o s, p := zn (s.a ||| operandByte o s) s.p, io := operandIo o s }) ∧
    ((Instr.eor o).wf = true → exec (.eor o) s =
      .next { s with a := s.a ^^^ operandByte o s, p := zn (s.a ^^^ operandByte o s) s.p, io := operandIo o s })

/-- R164: BIT writes Z, N and V and nothing else. -/
def Obligations.BitTestWritesZNV : Prop :=
  Forms .bit [(.zp, 0x24), (.abs, 0x2C)] ∧
  ∀ (o : Operand) (s : State), (Instr.bit o).wf = true →
    exec (.bit o) s = .next { s with
      p := { s.p with
        z := decide (s.a &&& operandByte o s = 0#8)
        n := (operandByte o s).toNat.testBit 7
        v := (operandByte o s).toNat.testBit 6 }
      io := operandIo o s }

/-- R165, R166: ASL and LSR, encodings, on A and on memory: the byte, C from the bit shifted out, Z and N, and nothing else. -/
def Obligations.ShiftsOnAAndOnMemory : Prop :=
  Forms .asl [(.acc, 0x0A), (.zp, 0x06), (.zpx, 0x16), (.abs, 0x0E), (.absx, 0x1E)] ∧
  Forms .lsr [(.acc, 0x4A), (.zp, 0x46), (.zpx, 0x56), (.abs, 0x4E), (.absx, 0x5E)] ∧
  ShiftsA .asl aslOut ∧ ShiftsA .lsr lsrOut ∧ ModifiesMemory .asl aslOut ∧ ModifiesMemory .lsr lsrOut

/-- R167, R168: ROL and ROR, encodings, on A and on memory: the bit shifted in is the Carry as it was before. -/
def Obligations.RotatesThroughCarry : Prop :=
  Forms .rol [(.acc, 0x2A), (.zp, 0x26), (.zpx, 0x36), (.abs, 0x2E), (.absx, 0x3E)] ∧
  Forms .ror [(.acc, 0x6A), (.zp, 0x66), (.zpx, 0x76), (.abs, 0x6E), (.absx, 0x7E)] ∧
  ShiftsA .rol rolOut ∧ ShiftsA .ror rorOut ∧ ModifiesMemory .rol rolOut ∧ ModifiesMemory .ror rorOut

/-- R180 to R183: encodings, C from the unsigned comparison, Z and N from the difference, and nothing else but the read's own
I/O side effect; the incoming Carry and Decimal play no part. -/
def Obligations.ComparesWriteCZN : Prop :=
  Forms .cmp [(.imm, 0xC9), (.zp, 0xC5), (.zpx, 0xD5), (.abs, 0xCD), (.absx, 0xDD), (.absy, 0xD9), (.izx, 0xC1), (.izy, 0xD1)] ∧
  Forms .cpx [(.imm, 0xE0), (.zp, 0xE4), (.abs, 0xEC)] ∧
  Forms .cpy [(.imm, 0xC0), (.zp, 0xC4), (.abs, 0xCC)] ∧
  ComparesRegister .cmp State.a ∧ ComparesRegister .cpx State.x ∧ ComparesRegister .cpy State.y

/-! ## Stack, jumps, trap -/

/-- R191, R193: PHA and PHP store one byte at SP, lower SP, and change nothing else. -/
def Obligations.PushInstructions : Prop :=
  OneByte .pha 0x48#8 ∧ OneByte .php 0x08#8 ∧
  ∀ s : State,
    (∃ t, exec .pha s = .next t ∧ t = { s with sp := s.sp - 1#8, mem := t.mem } ∧
      (∀ b, b ≠ stackCell s.sp → t.mem.read b = s.mem.read b) ∧ (s.mem.wf → t.mem.read (stackCell s.sp) = s.a)) ∧
    (∃ t, exec .php s = .next t ∧ t = { s with sp := s.sp - 1#8, mem := t.mem } ∧
      (∀ b, b ≠ stackCell s.sp → t.mem.read b = s.mem.read b) ∧
      (s.mem.wf → (t.mem.read (stackCell s.sp)).toNat = statusSum s.p.b s.p))

/-- R192, R194: PLA and PLP read one byte above SP, raise SP, and change A with Z and N, or all seven flags. -/
def Obligations.PullInstructions : Prop :=
  OneByte .pla 0x68#8 ∧ OneByte .plp 0x28#8 ∧
  ∀ s : State,
    let v := s.mem.read (stackCell (s.sp + 1#8))
    exec .pla s = .next { s with a := v, sp := s.sp + 1#8, p := zn v s.p } ∧
    exec .plp s = .next { s with
      sp := s.sp + 1#8
      p := ⟨v.toNat.testBit 7, v.toNat.testBit 6, v.toNat.testBit 4, v.toNat.testBit 3, v.toNat.testBit 2,
        v.toNat.testBit 1, v.toNat.testBit 0⟩ }

/-- R200: JMP changes PC alone, and the Indirect form's two pointer reads have their I/O side effects. -/
def Obligations.JmpWritesPc : Prop :=
  Forms .jmp [(.abs, 0x4C), (.ind, 0x6C)] ∧
  ∀ (a : Addr) (s : State),
    exec (.jmp (.abs a)) s = .next { s with pc := a } ∧
    (let second : Addr := if a.toNat % 256 = 255 then BitVec.ofNat 16 (a.toNat - 255) else BitVec.ofNat 16 (a.toNat + 1)
     exec (.jmp (.ind a)) s = .next { s with
      pc := BitVec.ofNat 16 ((readByte s second).toNat * 256 + (readByte s a).toNat)
      io := ioAfter s.cfg.switchOnRead second (ioAfter s.cfg.switchOnRead a s.io) })

/-- R201: JSR pushes PC - 1, high byte first, and jumps; nothing else changes. -/
def Obligations.JsrPushesTheReturnAddress : Prop :=
  (∀ (target : Addr) (rest : List Byte),
    decode (0x20#8 :: loByte target :: hiByte target :: rest) = .ok (.jsr target, rest)) ∧
  ∀ (target : Addr) (s : State),
    ∃ t, exec (.jsr target) s = .next t ∧ t = { s with pc := target, sp := s.sp - 2#8, mem := t.mem } ∧
      (∀ b, b ≠ stackCell s.sp → b ≠ stackCell (s.sp - 1#8) → t.mem.read b = s.mem.read b) ∧
      (s.mem.wf → (t.mem.read (stackCell s.sp)).toNat = (s.pc - 1#16).toNat / 256 ∧
        (t.mem.read (stackCell (s.sp - 1#8))).toNat = (s.pc - 1#16).toNat % 256)

/-- R202: RTS pulls the low byte, then the high byte, and resumes at the value plus one; nothing else changes. -/
def Obligations.RtsResumesPastThePulledAddress : Prop :=
  OneByte .rts 0x60#8 ∧
  ∀ s : State, exec .rts s = .next { s with
    sp := s.sp + 2#8
    pc := BitVec.ofNat 16 ((s.mem.read (stackCell (s.sp + 2#8))).toNat * 256 +
      (s.mem.read (stackCell (s.sp + 1#8))).toNat + 1) }

/-- R210, R244: BRK sets I, pushes PC + 1 high byte first and the status byte with bit 4 set, and goes to the cached break
vector. The Break latch and everything else stay. The pushed I bit is 1, or the old I when BRK_PUSHES_I_AFTER_SET is false. -/
def Obligations.BrkTakesTheTrap : Prop :=
  OneByte .brk 0x00#8 ∧
  ∀ s : State,
    ∃ t, exec .brk s = .next t ∧
      t = { s with pc := s.vec.brk, sp := s.sp - 3#8, p := { s.p with i := true }, mem := t.mem } ∧
      (∀ b, b ≠ stackCell s.sp → b ≠ stackCell (s.sp - 1#8) → b ≠ stackCell (s.sp - 2#8) →
        t.mem.read b = s.mem.read b) ∧
      (s.mem.wf →
        (t.mem.read (stackCell s.sp)).toNat = (s.pc + 1#16).toNat / 256 ∧
        (t.mem.read (stackCell (s.sp - 1#8))).toNat = (s.pc + 1#16).toNat % 256 ∧
        (t.mem.read (stackCell (s.sp - 2#8))).toNat =
          statusSum true { s.p with i := s.p.i || s.cfg.brkPushesIAfterSet })

/-- R211, R245: RTI pulls the status byte into all seven flags, then PC low, then PC high, with no adjustment. -/
def Obligations.RtiReturnsFromTheTrap : Prop :=
  OneByte .rti 0x40#8 ∧
  ∀ s : State,
    let v := s.mem.read (stackCell (s.sp + 1#8))
    exec .rti s = .next { s with
      sp := s.sp + 3#8
      p := ⟨v.toNat.testBit 7, v.toNat.testBit 6, v.toNat.testBit 4, v.toNat.testBit 3, v.toNat.testBit 2,
        v.toNat.testBit 1, v.toNat.testBit 0⟩
      pc := BitVec.ofNat 16 ((s.mem.read (stackCell (s.sp + 3#8))).toNat * 256 +
        (s.mem.read (stackCell (s.sp + 2#8))).toNat) }

/-- R212 to R219: NOP changes nothing, and each flag instruction its one flag. -/
def Obligations.NopAndFlagInstructions : Prop :=
  OneByte .nop 0xEA#8 ∧ OneByte .clc 0x18#8 ∧ OneByte .sec 0x38#8 ∧ OneByte .cli 0x58#8 ∧ OneByte .sei 0x78#8 ∧
  OneByte .cld 0xD8#8 ∧ OneByte .sed 0xF8#8 ∧ OneByte .clv 0xB8#8 ∧
  ∀ s : State,
    exec .nop s = .next s ∧
    exec .clc s = .next { s with p := { s.p with c := false } } ∧
    exec .sec s = .next { s with p := { s.p with c := true } } ∧
    exec .cli s = .next { s with p := { s.p with i := false } } ∧
    exec .sei s = .next { s with p := { s.p with i := true } } ∧
    exec .cld s = .next { s with p := { s.p with d := false } } ∧
    exec .sed s = .next { s with p := { s.p with d := true } } ∧
    exec .clv s = .next { s with p := { s.p with v := false } }

/-- R226: the operation ILLEGAL changes nothing; under `signal` it ends in IllegalOpcode, with the address of its byte. -/
def Obligations.IllegalChangesNothing : Prop :=
  ∀ (op : Byte) (s : State),
    (s.cfg.illegalPolicy = .nop → exec (.illegal op) s = .next s) ∧
    (s.cfg.illegalPolicy = .signal → exec (.illegal op) s = .fault (.illegalOpcode op (s.pc - 1#16)))

/-- R230 to R238: encodings, conditions, the signed displacement modulo 65536, and nothing else. -/
def Obligations.BranchesAddTheDisplacement : Prop :=
  (∀ (d : Byte) (rest : List Byte),
    decode (0x90#8 :: d :: rest) = .ok (.bcc d, rest) ∧ decode (0xB0#8 :: d :: rest) = .ok (.bcs d, rest) ∧
    decode (0xF0#8 :: d :: rest) = .ok (.beq d, rest) ∧ decode (0xD0#8 :: d :: rest) = .ok (.bne d, rest) ∧
    decode (0x30#8 :: d :: rest) = .ok (.bmi d, rest) ∧ decode (0x10#8 :: d :: rest) = .ok (.bpl d, rest) ∧
    decode (0x50#8 :: d :: rest) = .ok (.bvc d, rest) ∧ decode (0x70#8 :: d :: rest) = .ok (.bvs d, rest)) ∧
  BranchesWhen .bcc (fun p => p.c = false) ∧ BranchesWhen .bcs (fun p => p.c = true) ∧
  BranchesWhen .beq (fun p => p.z = true) ∧ BranchesWhen .bne (fun p => p.z = false) ∧
  BranchesWhen .bmi (fun p => p.n = true) ∧ BranchesWhen .bpl (fun p => p.n = false) ∧
  BranchesWhen .bvc (fun p => p.v = false) ∧ BranchesWhen .bvs (fun p => p.v = true)

/-! ## Round trips -/

/-- R192: PHA then PLA restores A and SP and recomputes Z and N from A, wherever SP stands. -/
def Obligations.PhaThenPlaRestoresA : Prop :=
  ∀ s : State, s.mem.wf → ∃ u t, exec .pha s = .next u ∧ exec .pla u = .next t ∧
    t = { s with p := zn s.a s.p, mem := t.mem }

/-- R194: PHP then PLP leaves every flag as it was, Break too. -/
def Obligations.PhpThenPlpRestoresTheFlags : Prop :=
  ∀ s : State, s.mem.wf → ∃ u t, exec .php s = .next u ∧ exec .plp u = .next t ∧ t = { s with mem := t.mem }

/-- R202, R203: JSR then at once RTS resumes at the instruction after the JSR, with SP where it was. -/
def Obligations.JsrThenRtsReturns : Prop :=
  ∀ (target : Addr) (s : State), s.mem.wf →
    ∃ u t, exec (.jsr target) s = .next u ∧ exec .rts u = .next t ∧ t = { s with mem := t.mem }

/-- R211, C3: BRK then at once RTI resumes past the padding byte with SP, N, V, D, Z and C as before, and B = 1; I = 1, or the
old I when BRK_PUSHES_I_AFTER_SET is false. -/
def Obligations.BrkThenRtiReturns : Prop :=
  ∀ s : State, s.mem.wf → ∃ u t, exec .brk s = .next u ∧ exec .rti u = .next t ∧
    t = { s with
      pc := s.pc + 1#16
      p := { s.p with b := true, i := s.p.i || s.cfg.brkPushesIAfterSet }
      mem := t.mem }

/-! ## Whole-machine rules -/

/-- R23's table, R24: which instructions may change which flag. -/
def Obligations.OnlyDocumentedInstructionsWriteAFlag : Prop :=
  ∀ (i : Instr) (s t : State), exec i s = .next t →
    (t.p.b = s.p.b ∨ i = .plp ∨ i = .rti) ∧
    (t.p.d = s.p.d ∨ i = .cld ∨ i = .sed ∨ i = .plp ∨ i = .rti) ∧
    (t.p.i = s.p.i ∨ i = .cli ∨ i = .sei ∨ i = .brk ∨ i = .plp ∨ i = .rti) ∧
    (t.p.v = s.p.v ∨ i = .clv ∨ i = .plp ∨ i = .rti ∨ ∃ o, i = .adc o ∨ i = .sbc o ∨ i = .bit o) ∧
    (t.p.c = s.p.c ∨ i = .clc ∨ i = .sec ∨ i = .plp ∨ i = .rti ∨
      ∃ o, i = .adc o ∨ i = .sbc o ∨ i = .asl o ∨ i = .lsr o ∨ i = .rol o ∨ i = .ror o ∨ i = .cmp o ∨ i = .cpx o ∨ i = .cpy o) ∧
    ((t.p.z = s.p.z ∧ t.p.n = s.p.n) ∨ i = .plp ∨ i = .rti ∨ i = .tax ∨ i = .tay ∨ i = .txa ∨ i = .tya ∨ i = .tsx ∨
      (i = .txs ∧ s.cfg.txsSetsZN = true) ∨ i = .pla ∨ i = .inx ∨ i = .iny ∨ i = .dex ∨ i = .dey ∨
      ∃ o, i = .lda o ∨ i = .ldx o ∨ i = .ldy o ∨ i = .inc o ∨ i = .dec o ∨ i = .adc o ∨ i = .sbc o ∨ i = .and o ∨
        i = .ora o ∨ i = .eor o ∨ i = .bit o ∨ i = .asl o ∨ i = .lsr o ∨ i = .rol o ∨ i = .ror o ∨ i = .cmp o ∨
        i = .cpx o ∨ i = .cpy o)

/-- R20's table, R21, R22: which instructions may change which register, and which redirect PC. -/
def Obligations.OnlyDocumentedInstructionsWriteARegister : Prop :=
  ∀ (i : Instr) (s t : State), i.wf = true → exec i s = .next t →
    (t.a = s.a ∨ i = .txa ∨ i = .tya ∨ i = .pla ∨ i = .asl .acc ∨ i = .lsr .acc ∨ i = .rol .acc ∨ i = .ror .acc ∨
      ∃ o, i = .lda o ∨ i = .adc o ∨ i = .sbc o ∨ i = .and o ∨ i = .ora o ∨ i = .eor o) ∧
    (t.x = s.x ∨ i = .tax ∨ i = .tsx ∨ i = .inx ∨ i = .dex ∨ ∃ o, i = .ldx o) ∧
    (t.y = s.y ∨ i = .tay ∨ i = .iny ∨ i = .dey ∨ ∃ o, i = .ldy o) ∧
    (t.sp = s.sp ∨ i = .txs ∨ i = .pha ∨ i = .php ∨ i = .pla ∨ i = .plp ∨ i = .rts ∨ i = .brk ∨ i = .rti ∨
      ∃ a, i = .jsr a) ∧
    (t.pc = s.pc ∨ i = .rts ∨ i = .rti ∨ i = .brk ∨ (∃ o, i = .jmp o) ∨ (∃ a, i = .jsr a) ∨
      ∃ d, i = .bcc d ∨ i = .bcs d ∨ i = .beq d ∨ i = .bne d ∨ i = .bmi d ∨ i = .bpl d ∨ i = .bvc d ∨ i = .bvs d)

/-- Which instructions may change memory: the stores, the read-modify-writes in their memory forms, the pushes, JSR and BRK
(R120, R144, R145, R169, R190, R201, R210). Every other instruction leaves all of it. -/
def Obligations.OnlyStoringInstructionsWriteMemory : Prop :=
  ∀ (i : Instr) (s t : State), i.wf = true → exec i s = .next t →
    t.mem = s.mem ∨ i = .pha ∨ i = .php ∨ i = .brk ∨ (∃ a, i = .jsr a) ∨
    ∃ o, o ≠ .acc ∧ (i = .sta o ∨ i = .stx o ∨ i = .sty o ∨ i = .inc o ∨ i = .dec o ∨ i = .asl o ∨ i = .lsr o ∨
      i = .rol o ∨ i = .ror o)

/-- Every step keeps the memory's canonical form: strictly rising addresses below 65536 and no entry that says what an unlisted
address reads as. -/
def Obligations.StepKeepsMemoryCanonical : Prop := StepKeeps (fun s => s.mem.wf)

/-- R25, R54, R29, R30: no step changes a cell at or above 0xC000, a cached vector or the key code, raises KEY_PENDING or lowers
CYC; and a vector slot that Boot has cached stays what the cache says. The model's choice: the parameters of R6 are a field, which
no step changes (log 7), and so is the run state of R31, which stays running (log 11). -/
def Obligations.StepKeepsWhatOnlyTheHostWrites : Prop :=
  (∀ s t : State, step s = .next t →
    (∀ b, 0xC000 ≤ b → t.mem.read b = s.mem.read b) ∧ t.vec = s.vec ∧ t.io.keyCode = s.io.keyCode ∧ t.cfg = s.cfg ∧
    t.run = .running ∧ (t.io.keyPending = true → s.io.keyPending = true) ∧ s.cyc ≤ t.cyc) ∧
  StepKeeps (fun s => s.vec = ⟨vectorAt s.mem 0xFFFA, vectorAt s.mem 0xFFFC, vectorAt s.mem 0xFFFE⟩)
end

