-- ==== Sys2Proof/Laws/Bits.lean ====
section
/-! SUPPORT. Byte order (R55), where the zero page and the stack page lie in the bus decode (R59), and the status byte's
round trip (R13). -/

namespace Sys2Proof

theorem toNat_joinBytes (hi lo : Byte) : (joinBytes hi lo).toNat = hi.toNat * 256 + lo.toNat := by
  have := hi.isLt
  have := lo.isLt
  simp [joinBytes]; omega

theorem toNat_hiByte (w : Addr) : (hiByte w).toNat = w.toNat / 256 := by
  have := w.isLt
  simp [hiByte, Nat.shiftRight_eq_div_pow]; omega

theorem toNat_loByte (w : Addr) : (loByte w).toNat = w.toNat % 256 := by simp [loByte]

@[simp] theorem hiByte_joinBytes (hi lo : Byte) : hiByte (joinBytes hi lo) = hi := by
  have := lo.isLt
  apply BitVec.eq_of_toNat_eq
  rw [toNat_hiByte, toNat_joinBytes]; omega

@[simp] theorem loByte_joinBytes (hi lo : Byte) : loByte (joinBytes hi lo) = lo := by
  have := lo.isLt
  apply BitVec.eq_of_toNat_eq
  rw [toNat_loByte, toNat_joinBytes]; omega

@[simp] theorem joinBytes_hiByte_loByte (w : Addr) : joinBytes (hiByte w) (loByte w) = w := by
  apply BitVec.eq_of_toNat_eq
  rw [toNat_joinBytes, toNat_hiByte, toNat_loByte]; omega

@[simp] theorem toNat_zext16 (d : Byte) : (zext16 d).toNat = d.toNat := by
  have := d.isLt
  simp [zext16]; omega

namespace Machine

theorem toNat_stackAddr (sp : Byte) : (stackAddr sp).toNat = 256 + sp.toNat := by
  revert sp; decide

theorem stackAddr_inj {a b : Byte} : stackAddr a = stackAddr b ↔ a = b := by
  constructor
  · intro h
    have := congrArg BitVec.toNat h
    simp only [toNat_stackAddr] at this
    exact BitVec.eq_of_toNat_eq (by omega)
  · rintro rfl; rfl

theorem inIoRange_eq_false {a : Addr} (h : a.toNat < 0xC000) : inIoRange a = false := by
  simp [inIoRange]; omega

theorem inRom_eq_false {a : Addr} (h : a.toNat < 0xC000) : inRom a = false := by
  simp [inRom]; omega

@[simp] theorem inIoRange_zext16 (d : Byte) : inIoRange (zext16 d) = false :=
  inIoRange_eq_false (by have := d.isLt; simp; omega)

@[simp] theorem inIoRange_stackAddr (sp : Byte) : inIoRange (stackAddr sp) = false :=
  inIoRange_eq_false (by have := sp.isLt; rw [toNat_stackAddr]; omega)

@[simp] theorem inRom_stackAddr (sp : Byte) : inRom (stackAddr sp) = false :=
  inRom_eq_false (by have := sp.isLt; rw [toNat_stackAddr]; omega)

/-- SetStatus of StatusByte(b) gives every flag back but the Break latch, which gets b. -/
@[simp] theorem flagsOfStatus_statusByte (b : Bool) (p : Flags) : flagsOfStatus (statusByte b p) = { p with b := b } := by
  obtain ⟨n, v, b', d, i, z, c⟩ := p
  revert n v b' d i z c b
  decide

end Machine
end Sys2Proof
end

