-- ==== Sys2Proof/Laws/Memory.lean ====
section
/-! SUPPORT. The laws of the backing array (R27, R61): a read after a write, every other address alone, and the canonical
form kept by every memory operation. -/

namespace Sys2Proof.Machine

/-- An address below every listed one reads as unlisted. -/
theorem Memory.read_of_lt {m : Memory} {a : Nat} (h : ∀ c ∈ m, a < c.1) : m.read a = Memory.unlisted a := by
  induction m with
  | nil => rfl
  | cons c rest ih =>
    have hc := h c (by simp)
    simp only [Memory.read]
    rw [if_neg (by omega), ih (fun e he => h e (by simp [he]))]

/-- A write leaves every other address alone, in canonical form or not. -/
theorem Memory.read_write_other {m : Memory} {a b : Nat} {v : Byte} (hab : b ≠ a) :
    (m.write a v).read b = m.read b := by
  induction m with
  | nil => simp only [Memory.write]; split <;> simp [Memory.read, hab.symm]
  | cons c rest ih =>
    obtain ⟨k, w⟩ := c
    simp only [Memory.write]
    split_ifs with h1 h2 h3 h4
    · rfl
    · simp [Memory.read, hab.symm]
    · subst h3; simp [Memory.read, hab.symm]
    · subst h3; simp [Memory.read, hab.symm]
    · simp [Memory.read, ih]

/-- A read after a write to the same address gives the value written. -/
theorem Memory.read_write_same {m : Memory} {a : Nat} {v : Byte} (hm : m.wf) : (m.write a v).read a = v := by
  induction m with
  | nil => simp only [Memory.write]; split <;> simp_all [Memory.read]
  | cons c rest ih =>
    obtain ⟨k, w⟩ := c
    obtain ⟨hp, hb⟩ := hm
    rw [List.pairwise_cons] at hp
    have hrest : Memory.wf rest := ⟨hp.2, fun e he => hb e (by simp [he])⟩
    simp only [Memory.write]
    split_ifs with h1 h2 h3 h4
    · rw [Memory.read_of_lt, h2]
      intro e he
      rcases List.mem_cons.1 he with rfl | he
      · exact h1
      · exact lt_trans h1 (hp.1 e he)
    · simp [Memory.read]
    · subst h3
      rw [Memory.read_of_lt (fun e he => hp.1 e he), h4]
    · simp [Memory.read]
    · simp only [Memory.read]
      rw [if_neg (by omega), ih hrest]

/-- The addresses listed after a write: the old ones, and the one written. -/
theorem Memory.mem_write {m : Memory} {a : Nat} {v : Byte} {c : Host.Cell} (h : c ∈ m.write a v) :
    c ∈ m ∨ c = (a, v) ∧ v ≠ Memory.unlisted a := by
  induction m with
  | nil => simp only [Memory.write] at h; split at h <;> simp_all
  | cons e rest ih =>
    obtain ⟨k, w⟩ := e
    simp only [Memory.write] at h
    split_ifs at h <;> simp only [List.mem_cons] at h ⊢ <;> tauto

/-- A write keeps the canonical form. -/
theorem Memory.wf_write {m : Memory} {a : Nat} {v : Byte} (hm : m.wf) (ha : a < 65536) : (m.write a v).wf := by
  refine ⟨?_, fun c hc => ?_⟩
  · induction m with
    | nil => simp only [Memory.write]; split <;> simp
    | cons e rest ih =>
      obtain ⟨k, w⟩ := e
      obtain ⟨hp, hb⟩ := hm
      have hp' := List.pairwise_cons.1 hp
      have hrest : Memory.wf rest := ⟨hp'.2, fun e he => hb e (by simp [he])⟩
      simp only [Memory.write]
      split_ifs with h1 h2 h3 h4
      · exact hp
      · refine List.pairwise_cons.2 ⟨fun e he => ?_, hp⟩
        rcases List.mem_cons.1 he with rfl | he
        · exact h1
        · exact lt_trans h1 (hp'.1 e he)
      · exact hp'.2
      · subst h3
        exact List.pairwise_cons.2 ⟨fun e he => hp'.1 e he, hp'.2⟩
      · refine List.pairwise_cons.2 ⟨fun e he => ?_, ih hrest⟩
        rcases Memory.mem_write he with he | ⟨rfl, _⟩
        · exact hp'.1 e he
        · show k < a
          omega
  · rcases Memory.mem_write hc with hc | ⟨rfl, hv⟩
    · exact hm.2 c hc
    · exact ⟨ha, hv⟩

/-- Two memories in canonical form that read alike everywhere are equal data. -/
theorem Memory.ext_of_read {m m' : Memory} (hm : m.wf) (hm' : m'.wf) (h : ∀ a, m.read a = m'.read a) : m = m' := by
  induction m generalizing m' with
  | nil =>
    cases m' with
    | nil => rfl
    | cons e rest =>
      have := h e.1
      simp only [Memory.read, if_true] at this
      exact absurd this.symm (hm'.2 e (by simp)).2
  | cons c rest ih =>
    have hp := List.pairwise_cons.1 hm.1
    cases m' with
    | nil =>
      have := h c.1
      simp only [Memory.read, if_true] at this
      exact absurd this (hm.2 c (by simp)).2
    | cons e rest' =>
      have hp' := List.pairwise_cons.1 hm'.1
      have hlt : ∀ {x y : Host.Cell} {l : Memory}, (∀ z ∈ l, y.1 < z.1) → x.1 < y.1 →
          Memory.read (y :: l) x.1 = Memory.unlisted x.1 := by
        intro x y l hl hxy
        refine Memory.read_of_lt fun z hz => ?_
        rcases List.mem_cons.1 hz with rfl | hz
        · exact hxy
        · exact lt_trans hxy (hl z hz)
      have hkey : c.1 = e.1 := by
        rcases lt_trichotomy c.1 e.1 with hce | hce | hce
        · have hc := h c.1
          rw [hlt hp'.1 hce] at hc
          simp only [Memory.read, if_true] at hc
          exact absurd hc (hm.2 c (by simp)).2
        · exact hce
        · have he := h e.1
          rw [hlt hp.1 hce] at he
          simp only [Memory.read, if_true] at he
          exact absurd he.symm (hm'.2 e (by simp)).2
      have hval : c.2 = e.2 := by
        have := h c.1
        simpa [Memory.read, hkey] using this
      have hce : c = e := Prod.ext hkey hval
      subst hce
      congr 1
      refine ih ⟨hp.2, fun z hz => hm.2 z (by simp [hz])⟩ ⟨hp'.2, fun z hz => hm'.2 z (by simp [hz])⟩ fun a => ?_
      by_cases ha : c.1 = a
      · rw [Memory.read_of_lt (fun z hz => ha ▸ hp.1 z hz), Memory.read_of_lt (fun z hz => ha ▸ hp'.1 z hz)]
      · have := h a
        simpa [Memory.read, ha] using this

/-- A load keeps the canonical form while it stays in the address space. -/
theorem Memory.wf_writeAll {vs : List Byte} {m : Memory} {a : Nat} (hm : m.wf) (ha : a + vs.length ≤ 65536) :
    (m.writeAll a vs).wf := by
  induction vs generalizing m a with
  | nil => exact hm
  | cons v vs ih =>
    simp only [List.length_cons] at ha
    exact ih (Memory.wf_write hm (by omega)) (by omega)

/-- A load leaves the addresses outside its range alone. -/
theorem Memory.read_writeAll_other {vs : List Byte} {m : Memory} {a b : Nat} (hb : b < a ∨ a + vs.length ≤ b) :
    (m.writeAll a vs).read b = m.read b := by
  induction vs generalizing m a with
  | nil => rfl
  | cons v vs ih =>
    simp only [List.length_cons] at hb
    rw [Memory.writeAll, ih (by omega), Memory.read_write_other (by omega)]

end Sys2Proof.Machine
end

