-- ==== Sys2Proof/Laws/State.lean ====
section
/-! SUPPORT. What each register write of Machine/Ops.lean leaves in each field of State, and each flag computation of
Machine/Flags.lean in each flag: one lemma per field per update, so that no proof unfolds a record update. -/

namespace Sys2Proof.Machine

/-! ### setA -/

@[simp] theorem setA_a (s : State) (v : Byte) : (s.setA v).a = v := rfl
@[simp] theorem setA_x (s : State) (v : Byte) : (s.setA v).x = s.x := rfl
@[simp] theorem setA_y (s : State) (v : Byte) : (s.setA v).y = s.y := rfl
@[simp] theorem setA_sp (s : State) (v : Byte) : (s.setA v).sp = s.sp := rfl
@[simp] theorem setA_pc (s : State) (v : Byte) : (s.setA v).pc = s.pc := rfl
@[simp] theorem setA_p (s : State) (v : Byte) : (s.setA v).p = s.p := rfl
@[simp] theorem setA_mem (s : State) (v : Byte) : (s.setA v).mem = s.mem := rfl
@[simp] theorem setA_io (s : State) (v : Byte) : (s.setA v).io = s.io := rfl
@[simp] theorem setA_vec (s : State) (v : Byte) : (s.setA v).vec = s.vec := rfl
@[simp] theorem setA_cyc (s : State) (v : Byte) : (s.setA v).cyc = s.cyc := rfl
@[simp] theorem setA_run (s : State) (v : Byte) : (s.setA v).run = s.run := rfl
@[simp] theorem setA_cfg (s : State) (v : Byte) : (s.setA v).cfg = s.cfg := rfl

/-! ### setX -/

@[simp] theorem setX_a (s : State) (v : Byte) : (s.setX v).a = s.a := rfl
@[simp] theorem setX_x (s : State) (v : Byte) : (s.setX v).x = v := rfl
@[simp] theorem setX_y (s : State) (v : Byte) : (s.setX v).y = s.y := rfl
@[simp] theorem setX_sp (s : State) (v : Byte) : (s.setX v).sp = s.sp := rfl
@[simp] theorem setX_pc (s : State) (v : Byte) : (s.setX v).pc = s.pc := rfl
@[simp] theorem setX_p (s : State) (v : Byte) : (s.setX v).p = s.p := rfl
@[simp] theorem setX_mem (s : State) (v : Byte) : (s.setX v).mem = s.mem := rfl
@[simp] theorem setX_io (s : State) (v : Byte) : (s.setX v).io = s.io := rfl
@[simp] theorem setX_vec (s : State) (v : Byte) : (s.setX v).vec = s.vec := rfl
@[simp] theorem setX_cyc (s : State) (v : Byte) : (s.setX v).cyc = s.cyc := rfl
@[simp] theorem setX_run (s : State) (v : Byte) : (s.setX v).run = s.run := rfl
@[simp] theorem setX_cfg (s : State) (v : Byte) : (s.setX v).cfg = s.cfg := rfl

/-! ### setY -/

@[simp] theorem setY_a (s : State) (v : Byte) : (s.setY v).a = s.a := rfl
@[simp] theorem setY_x (s : State) (v : Byte) : (s.setY v).x = s.x := rfl
@[simp] theorem setY_y (s : State) (v : Byte) : (s.setY v).y = v := rfl
@[simp] theorem setY_sp (s : State) (v : Byte) : (s.setY v).sp = s.sp := rfl
@[simp] theorem setY_pc (s : State) (v : Byte) : (s.setY v).pc = s.pc := rfl
@[simp] theorem setY_p (s : State) (v : Byte) : (s.setY v).p = s.p := rfl
@[simp] theorem setY_mem (s : State) (v : Byte) : (s.setY v).mem = s.mem := rfl
@[simp] theorem setY_io (s : State) (v : Byte) : (s.setY v).io = s.io := rfl
@[simp] theorem setY_vec (s : State) (v : Byte) : (s.setY v).vec = s.vec := rfl
@[simp] theorem setY_cyc (s : State) (v : Byte) : (s.setY v).cyc = s.cyc := rfl
@[simp] theorem setY_run (s : State) (v : Byte) : (s.setY v).run = s.run := rfl
@[simp] theorem setY_cfg (s : State) (v : Byte) : (s.setY v).cfg = s.cfg := rfl

/-! ### setSP -/

@[simp] theorem setSP_a (s : State) (v : Byte) : (s.setSP v).a = s.a := rfl
@[simp] theorem setSP_x (s : State) (v : Byte) : (s.setSP v).x = s.x := rfl
@[simp] theorem setSP_y (s : State) (v : Byte) : (s.setSP v).y = s.y := rfl
@[simp] theorem setSP_sp (s : State) (v : Byte) : (s.setSP v).sp = v := rfl
@[simp] theorem setSP_pc (s : State) (v : Byte) : (s.setSP v).pc = s.pc := rfl
@[simp] theorem setSP_p (s : State) (v : Byte) : (s.setSP v).p = s.p := rfl
@[simp] theorem setSP_mem (s : State) (v : Byte) : (s.setSP v).mem = s.mem := rfl
@[simp] theorem setSP_io (s : State) (v : Byte) : (s.setSP v).io = s.io := rfl
@[simp] theorem setSP_vec (s : State) (v : Byte) : (s.setSP v).vec = s.vec := rfl
@[simp] theorem setSP_cyc (s : State) (v : Byte) : (s.setSP v).cyc = s.cyc := rfl
@[simp] theorem setSP_run (s : State) (v : Byte) : (s.setSP v).run = s.run := rfl
@[simp] theorem setSP_cfg (s : State) (v : Byte) : (s.setSP v).cfg = s.cfg := rfl

/-! ### setPC -/

@[simp] theorem setPC_a (s : State) (v : Addr) : (s.setPC v).a = s.a := rfl
@[simp] theorem setPC_x (s : State) (v : Addr) : (s.setPC v).x = s.x := rfl
@[simp] theorem setPC_y (s : State) (v : Addr) : (s.setPC v).y = s.y := rfl
@[simp] theorem setPC_sp (s : State) (v : Addr) : (s.setPC v).sp = s.sp := rfl
@[simp] theorem setPC_pc (s : State) (v : Addr) : (s.setPC v).pc = v := rfl
@[simp] theorem setPC_p (s : State) (v : Addr) : (s.setPC v).p = s.p := rfl
@[simp] theorem setPC_mem (s : State) (v : Addr) : (s.setPC v).mem = s.mem := rfl
@[simp] theorem setPC_io (s : State) (v : Addr) : (s.setPC v).io = s.io := rfl
@[simp] theorem setPC_vec (s : State) (v : Addr) : (s.setPC v).vec = s.vec := rfl
@[simp] theorem setPC_cyc (s : State) (v : Addr) : (s.setPC v).cyc = s.cyc := rfl
@[simp] theorem setPC_run (s : State) (v : Addr) : (s.setPC v).run = s.run := rfl
@[simp] theorem setPC_cfg (s : State) (v : Addr) : (s.setPC v).cfg = s.cfg := rfl

/-! ### setP -/

@[simp] theorem setP_a (s : State) (v : Flags) : (s.setP v).a = s.a := rfl
@[simp] theorem setP_x (s : State) (v : Flags) : (s.setP v).x = s.x := rfl
@[simp] theorem setP_y (s : State) (v : Flags) : (s.setP v).y = s.y := rfl
@[simp] theorem setP_sp (s : State) (v : Flags) : (s.setP v).sp = s.sp := rfl
@[simp] theorem setP_pc (s : State) (v : Flags) : (s.setP v).pc = s.pc := rfl
@[simp] theorem setP_p (s : State) (v : Flags) : (s.setP v).p = v := rfl
@[simp] theorem setP_mem (s : State) (v : Flags) : (s.setP v).mem = s.mem := rfl
@[simp] theorem setP_io (s : State) (v : Flags) : (s.setP v).io = s.io := rfl
@[simp] theorem setP_vec (s : State) (v : Flags) : (s.setP v).vec = s.vec := rfl
@[simp] theorem setP_cyc (s : State) (v : Flags) : (s.setP v).cyc = s.cyc := rfl
@[simp] theorem setP_run (s : State) (v : Flags) : (s.setP v).run = s.run := rfl
@[simp] theorem setP_cfg (s : State) (v : Flags) : (s.setP v).cfg = s.cfg := rfl

/-! ### setMem -/

@[simp] theorem setMem_a (s : State) (v : Memory) : (s.setMem v).a = s.a := rfl
@[simp] theorem setMem_x (s : State) (v : Memory) : (s.setMem v).x = s.x := rfl
@[simp] theorem setMem_y (s : State) (v : Memory) : (s.setMem v).y = s.y := rfl
@[simp] theorem setMem_sp (s : State) (v : Memory) : (s.setMem v).sp = s.sp := rfl
@[simp] theorem setMem_pc (s : State) (v : Memory) : (s.setMem v).pc = s.pc := rfl
@[simp] theorem setMem_p (s : State) (v : Memory) : (s.setMem v).p = s.p := rfl
@[simp] theorem setMem_mem (s : State) (v : Memory) : (s.setMem v).mem = v := rfl
@[simp] theorem setMem_io (s : State) (v : Memory) : (s.setMem v).io = s.io := rfl
@[simp] theorem setMem_vec (s : State) (v : Memory) : (s.setMem v).vec = s.vec := rfl
@[simp] theorem setMem_cyc (s : State) (v : Memory) : (s.setMem v).cyc = s.cyc := rfl
@[simp] theorem setMem_run (s : State) (v : Memory) : (s.setMem v).run = s.run := rfl
@[simp] theorem setMem_cfg (s : State) (v : Memory) : (s.setMem v).cfg = s.cfg := rfl

/-! ### setIo -/

@[simp] theorem setIo_a (s : State) (v : IoLatches) : (s.setIo v).a = s.a := rfl
@[simp] theorem setIo_x (s : State) (v : IoLatches) : (s.setIo v).x = s.x := rfl
@[simp] theorem setIo_y (s : State) (v : IoLatches) : (s.setIo v).y = s.y := rfl
@[simp] theorem setIo_sp (s : State) (v : IoLatches) : (s.setIo v).sp = s.sp := rfl
@[simp] theorem setIo_pc (s : State) (v : IoLatches) : (s.setIo v).pc = s.pc := rfl
@[simp] theorem setIo_p (s : State) (v : IoLatches) : (s.setIo v).p = s.p := rfl
@[simp] theorem setIo_mem (s : State) (v : IoLatches) : (s.setIo v).mem = s.mem := rfl
@[simp] theorem setIo_io (s : State) (v : IoLatches) : (s.setIo v).io = v := rfl
@[simp] theorem setIo_vec (s : State) (v : IoLatches) : (s.setIo v).vec = s.vec := rfl
@[simp] theorem setIo_cyc (s : State) (v : IoLatches) : (s.setIo v).cyc = s.cyc := rfl
@[simp] theorem setIo_run (s : State) (v : IoLatches) : (s.setIo v).run = s.run := rfl
@[simp] theorem setIo_cfg (s : State) (v : IoLatches) : (s.setIo v).cfg = s.cfg := rfl

/-! ### addCycles -/

@[simp] theorem addCycles_a (s : State) (n : Nat) : (s.addCycles n).a = s.a := rfl
@[simp] theorem addCycles_x (s : State) (n : Nat) : (s.addCycles n).x = s.x := rfl
@[simp] theorem addCycles_y (s : State) (n : Nat) : (s.addCycles n).y = s.y := rfl
@[simp] theorem addCycles_sp (s : State) (n : Nat) : (s.addCycles n).sp = s.sp := rfl
@[simp] theorem addCycles_pc (s : State) (n : Nat) : (s.addCycles n).pc = s.pc := rfl
@[simp] theorem addCycles_p (s : State) (n : Nat) : (s.addCycles n).p = s.p := rfl
@[simp] theorem addCycles_mem (s : State) (n : Nat) : (s.addCycles n).mem = s.mem := rfl
@[simp] theorem addCycles_io (s : State) (n : Nat) : (s.addCycles n).io = s.io := rfl
@[simp] theorem addCycles_vec (s : State) (n : Nat) : (s.addCycles n).vec = s.vec := rfl
@[simp] theorem addCycles_cyc (s : State) (n : Nat) : (s.addCycles n).cyc = s.cyc + n := rfl
@[simp] theorem addCycles_run (s : State) (n : Nat) : (s.addCycles n).run = s.run := rfl
@[simp] theorem addCycles_cfg (s : State) (n : Nat) : (s.addCycles n).cfg = s.cfg := rfl

/-! ### Writing back what a field holds changes nothing -/

@[simp] theorem setA_self (s : State) : s.setA s.a = s := rfl
@[simp] theorem setX_self (s : State) : s.setX s.x = s := rfl
@[simp] theorem setY_self (s : State) : s.setY s.y = s := rfl
@[simp] theorem setSP_self (s : State) : s.setSP s.sp = s := rfl
@[simp] theorem setPC_self (s : State) : s.setPC s.pc = s := rfl
@[simp] theorem setP_self (s : State) : s.setP s.p = s := rfl
@[simp] theorem setMem_self (s : State) : s.setMem s.mem = s := rfl
@[simp] theorem setIo_self (s : State) : s.setIo s.io = s := rfl

/-! ### A second write to a register is the one that counts -/

@[simp] theorem setA_setA (s : State) (v w : Byte) : (s.setA v).setA w = s.setA w := rfl
@[simp] theorem setX_setX (s : State) (v w : Byte) : (s.setX v).setX w = s.setX w := rfl
@[simp] theorem setY_setY (s : State) (v w : Byte) : (s.setY v).setY w = s.setY w := rfl
@[simp] theorem setSP_setSP (s : State) (v w : Byte) : (s.setSP v).setSP w = s.setSP w := rfl
@[simp] theorem setPC_setPC (s : State) (v w : Addr) : (s.setPC v).setPC w = s.setPC w := rfl
@[simp] theorem setP_setP (s : State) (v w : Flags) : (s.setP v).setP w = s.setP w := rfl
@[simp] theorem setMem_setMem (s : State) (v w : Memory) : (s.setMem v).setMem w = s.setMem w := rfl
@[simp] theorem setIo_setIo (s : State) (v w : IoLatches) : (s.setIo v).setIo w = s.setIo w := rfl

/-! ### Flags -/

@[simp] theorem setZN_n (v : Byte) (p : Flags) : (p.setZN v).n = v.getLsbD 7 := rfl
@[simp] theorem setZN_v (v : Byte) (p : Flags) : (p.setZN v).v = p.v := rfl
@[simp] theorem setZN_b (v : Byte) (p : Flags) : (p.setZN v).b = p.b := rfl
@[simp] theorem setZN_d (v : Byte) (p : Flags) : (p.setZN v).d = p.d := rfl
@[simp] theorem setZN_i (v : Byte) (p : Flags) : (p.setZN v).i = p.i := rfl
@[simp] theorem setZN_z (v : Byte) (p : Flags) : (p.setZN v).z = (v == 0#8) := rfl
@[simp] theorem setZN_c (v : Byte) (p : Flags) : (p.setZN v).c = p.c := rfl

@[simp] theorem setAlu_n (out : AluOut) (p : Flags) : (p.setAlu out).n = out.r.getLsbD 7 := rfl
@[simp] theorem setAlu_v (out : AluOut) (p : Flags) : (p.setAlu out).v = out.v := rfl
@[simp] theorem setAlu_b (out : AluOut) (p : Flags) : (p.setAlu out).b = p.b := rfl
@[simp] theorem setAlu_d (out : AluOut) (p : Flags) : (p.setAlu out).d = p.d := rfl
@[simp] theorem setAlu_i (out : AluOut) (p : Flags) : (p.setAlu out).i = p.i := rfl
@[simp] theorem setAlu_z (out : AluOut) (p : Flags) : (p.setAlu out).z = (out.r == 0#8) := rfl
@[simp] theorem setAlu_c (out : AluOut) (p : Flags) : (p.setAlu out).c = out.c := rfl

@[simp] theorem compare_n (r m : Byte) (p : Flags) : (p.compare r m).n = (r - m).getLsbD 7 := rfl
@[simp] theorem compare_v (r m : Byte) (p : Flags) : (p.compare r m).v = p.v := rfl
@[simp] theorem compare_b (r m : Byte) (p : Flags) : (p.compare r m).b = p.b := rfl
@[simp] theorem compare_d (r m : Byte) (p : Flags) : (p.compare r m).d = p.d := rfl
@[simp] theorem compare_i (r m : Byte) (p : Flags) : (p.compare r m).i = p.i := rfl
@[simp] theorem compare_z (r m : Byte) (p : Flags) : (p.compare r m).z = (r - m == 0#8) := rfl
@[simp] theorem compare_c (r m : Byte) (p : Flags) : (p.compare r m).c = decide (m.toNat ≤ r.toNat) := rfl

@[simp] theorem bitTest_n (a m : Byte) (p : Flags) : (p.bitTest a m).n = m.getLsbD 7 := rfl
@[simp] theorem bitTest_v (a m : Byte) (p : Flags) : (p.bitTest a m).v = m.getLsbD 6 := rfl
@[simp] theorem bitTest_b (a m : Byte) (p : Flags) : (p.bitTest a m).b = p.b := rfl
@[simp] theorem bitTest_d (a m : Byte) (p : Flags) : (p.bitTest a m).d = p.d := rfl
@[simp] theorem bitTest_i (a m : Byte) (p : Flags) : (p.bitTest a m).i = p.i := rfl
@[simp] theorem bitTest_z (a m : Byte) (p : Flags) : (p.bitTest a m).z = (a &&& m == 0#8) := rfl
@[simp] theorem bitTest_c (a m : Byte) (p : Flags) : (p.bitTest a m).c = p.c := rfl

end Sys2Proof.Machine
end

