-- ==== Sys2Proof/Laws/Bus.lean ====
section
/-! SUPPORT. What each bus and stack operation of Machine/Ops.lean can do, said once: one lemma per operation, which later
proofs cite and do not unfold. -/

namespace Sys2Proof.Machine

/-! ## The bus -/

/-- Outside the I/O range a read is the array's byte and has no side effect (R51, R58). -/
theorem busRead_plain {a : Addr} {s : State} (h : inIoRange a = false) : busRead a s = (s.mem.read a.toNat, s) := by
  simp [busRead, h]

/-- A read changes no more than the I/O latches, and not the key code (R51). -/
theorem busRead_frame (a : Addr) (s : State) :
    ∃ io, (busRead a s).2 = s.setIo io ∧ io.keyCode = s.io.keyCode := by
  have hsw : (applySwitch a s.io).keyCode = s.io.keyCode := by
    simp only [applySwitch]; split_ifs <;> rfl
  simp only [busRead]
  split_ifs
  all_goals first
    | exact ⟨s.io, rfl, rfl⟩
    | exact ⟨_, rfl, rfl⟩
    | exact ⟨_, rfl, hsw⟩

/-- Below 0xC000 a write is the array's and changes nothing else (R52). -/
theorem busWrite_plain {a : Addr} {v : Byte} {s : State} (h : a.toNat < 0xC000) :
    busWrite a v s = s.setMem (s.mem.write a.toNat v) := by
  simp [busWrite, inIoRange_eq_false h, inRom_eq_false h]

/-- What a memory keeps through a write: the canonical form, every other address, and every cell from 0xC000 up. -/
def WritesOnly (a : Nat) (m m' : Memory) : Prop :=
  (m.wf → m'.wf) ∧ (∀ b, b ≠ a → m'.read b = m.read b) ∧ ∀ b, 0xC000 ≤ b → m'.read b = m.read b

theorem WritesOnly.refl (a : Nat) (m : Memory) : WritesOnly a m m := ⟨id, fun _ _ => rfl, fun _ _ => rfl⟩

theorem WritesOnly.write {a : Nat} (m : Memory) (v : Byte) (h : a < 0xC000) : WritesOnly a m (m.write a v) :=
  ⟨fun hm => Memory.wf_write hm (by omega), fun _ hb => Memory.read_write_other hb,
    fun _ hb => Memory.read_write_other (by omega)⟩

/-- A write changes no more than the cell it names, which lies below 0xC000, and the I/O latches, and not the key code
(R52, R54). -/
theorem busWrite_frame (a : Addr) (v : Byte) (s : State) :
    ∃ m io, busWrite a v s = (s.setMem m).setIo io ∧ WritesOnly a.toNat s.mem m ∧ io.keyCode = s.io.keyCode := by
  have hsw : (applySwitch a s.io).keyCode = s.io.keyCode := by
    simp only [applySwitch]; split_ifs <;> rfl
  simp only [busWrite]
  split_ifs with hio h1 h2 hrom
  · exact ⟨s.mem, _, rfl, .refl _ _, rfl⟩
  · exact ⟨s.mem, _, rfl, .refl _ _, hsw⟩
  · exact ⟨s.mem, s.io, rfl, .refl _ _, rfl⟩
  · exact ⟨s.mem, s.io, rfl, .refl _ _, rfl⟩
  · refine ⟨_, s.io, rfl, .write _ _ ?_, rfl⟩
    simp only [inIoRange, inRom, Bool.and_eq_true, decide_eq_true_eq, not_and] at hio hrom
    omega

/-! ## The instruction stream and the stack -/

/-- A fetch advances PC by one and changes no more than the I/O latches besides (R11). -/
theorem fetch8_frame (s : State) :
    ∃ io, (fetch8 s).2 = (s.setIo io).setPC (s.pc + 1#16) ∧ io.keyCode = s.io.keyCode := by
  obtain ⟨io, h, hk⟩ := busRead_frame s.pc s
  exact ⟨io, by simp [fetch8, h], hk⟩

/-- Outside the I/O range a fetch is the array's byte at PC. -/
theorem fetch8_plain {s : State} (h : inIoRange s.pc = false) :
    fetch8 s = (s.mem.read s.pc.toNat, s.setPC (s.pc + 1#16)) := by
  simp [fetch8, busRead_plain h]

/-- Push: the byte into page 1, SP one lower (R12, R190). -/
theorem push_eq (v : Byte) (s : State) :
    push v s = (s.setMem (s.mem.write (stackAddr s.sp).toNat v)).setSP (s.sp - 1#8) := by
  simp [push, busWrite]

/-- Pull: SP one higher, the byte from page 1 (R12, R190). -/
theorem pull_eq (s : State) :
    pull s = (s.mem.read (stackAddr (s.sp + 1#8)).toNat, s.setSP (s.sp + 1#8)) := by
  simp [pull, busRead]

/-- Pushing a 16-bit value: the high byte at SP, the low byte one below, SP two lower (R55). -/
theorem pushWord_eq (w : Addr) (s : State) :
    pushWord w s =
      (s.setMem ((s.mem.write (stackAddr s.sp).toNat (hiByte w)).write
        (stackAddr (s.sp - 1#8)).toNat (loByte w))).setSP (s.sp - 1#8 - 1#8) := by
  simp only [pushWord, push_eq]
  rfl

/-- Pulling a 16-bit value: the low byte one above SP, the high byte two above, SP two higher (R55). -/
theorem pullWord_eq (s : State) :
    pullWord s =
      (joinBytes (s.mem.read (stackAddr (s.sp + 1#8 + 1#8)).toNat) (s.mem.read (stackAddr (s.sp + 1#8)).toNat),
        s.setSP (s.sp + 1#8 + 1#8)) := by
  simp only [pullWord, pull_eq]
  rfl

/-- A stack address lies in plain RAM. -/
theorem stackAddr_lt (sp : Byte) : (stackAddr sp).toNat < 0xC000 := by
  have := sp.isLt
  rw [toNat_stackAddr]; omega

/-! ## The trap, the return from it, and branches -/

/-- Trap entry: three bytes pushed below SP, I set, PC from the cached break vector, and nothing else (R210, R244). -/
theorem takeBreak_eq (s : State) :
    takeBreak s =
      ((((s.setMem (((s.mem.write (stackAddr s.sp).toNat (hiByte (s.pc + 1#16))).write
        (stackAddr (s.sp - 1#8)).toNat (loByte (s.pc + 1#16))).write
        (stackAddr (s.sp - 1#8 - 1#8)).toNat
          (statusByte true (if s.cfg.brkPushesIAfterSet then { s.p with i := true } else s.p)))).setP
        { s.p with i := true }).setSP (s.sp - 1#8 - 1#8 - 1#8)).setPC s.vec.brk) := by
  simp only [takeBreak, pushWord_eq, push_eq]
  rfl

/-- Trap return: three bytes pulled above SP, into the flags and PC, and nothing else (R211, R245). -/
theorem returnFromBreak_eq (s : State) :
    returnFromBreak s =
      (((s.setP (flagsOfStatus (s.mem.read (stackAddr (s.sp + 1#8)).toNat))).setSP (s.sp + 1#8 + 1#8 + 1#8)).setPC
        (joinBytes (s.mem.read (stackAddr (s.sp + 1#8 + 1#8 + 1#8)).toNat)
          (s.mem.read (stackAddr (s.sp + 1#8 + 1#8)).toNat))) := by
  simp only [returnFromBreak, pull_eq, pullWord_eq]
  rfl

/-- A branch changes PC or nothing (R230). -/
theorem branchIf_frame (cond : Bool) (d : Byte) (s : State) : ∃ pc, branchIf cond d s = s.setPC pc := by
  cases cond
  · exact ⟨s.pc, rfl⟩
  · exact ⟨_, rfl⟩

/-! ## The end of a step -/

/-- A step that ends in a next state ran an operation that did, and only CYC has moved since (R86). -/
theorem retire_next {n : Nat} {r : Result} {t : State} (h : retire n r = .next t) :
    ∃ u, r = .next u ∧ t = u.addCycles n := by
  cases r with
  | next u => exact ⟨u, rfl, by simpa [retire] using h.symm⟩
  | fault f => simp [retire] at h
  | refused f => simp [retire] at h

@[simp] theorem retire_next_eq (n : Nat) (s : State) : retire n (.next s) = .next (s.addCycles n) := rfl

end Sys2Proof.Machine
end

