-- ==== Sys2Proof/Laws/Decode.lean ====
section
/-! SUPPORT. What the decoder does, said once: an opcode byte and its operand bytes decode to the slot's instruction, and what
follows is left. -/

namespace Sys2Proof

/-- An opcode byte followed by as many bytes as its slot has decodes to the slot's instruction (R80, R84). -/
theorem decode_append (op : Byte) {bs : List Byte} (hbs : bs.length = operandCount op) (rest : List Byte) :
    decode (op :: (bs ++ rest)) = .ok (decodeOp op (bs.getD 0 0) (bs.getD 1 0), rest) := by
  simp only [decode, List.length_append, hbs]
  rw [if_neg (by omega), ← hbs, List.take_left, List.drop_left]

/-- A list the decoder accepts is an opcode byte, as many bytes as its slot has, and what is left. -/
theorem decode_ok {bs rest : List Byte} {i : Instr} (h : decode bs = .ok (i, rest)) :
    ∃ op operands, bs = op :: (operands ++ rest) ∧ operands.length = operandCount op ∧
      i = decodeOp op (operands.getD 0 0) (operands.getD 1 0) := by
  cases bs with
  | nil => simp [decode] at h
  | cons op tail =>
    simp only [decode] at h
    split at h
    · simp at h
    · rename_i hlen
      simp only [Except.ok.injEq, Prod.mk.injEq] at h
      refine ⟨op, tail.take (operandCount op), ?_, by simp; omega, h.1.symm⟩
      rw [← h.2, List.take_append_drop]

/-- An unpopulated slot is ILLEGAL. -/
theorem decodeOp_unpopulated {op : Byte} (h : lookupOpcode op = none) (b1 b2 : Byte) : decodeOp op b1 b2 = .illegal op := by
  simp [decodeOp, h]

/-- A slot found under an opcode byte has that opcode byte. -/
theorem lookupOpcode_opcode {op : Byte} {r : OpcodeRow} (h : lookupOpcode op = some r) : r.opcode = op ∧ r ∈ opcodeTable := by
  constructor
  · simpa using List.find?_some h
  · exact List.mem_of_find?_eq_some h

end Sys2Proof
end

