-- ==== Sys2Proof/Laws/Exec.lean ====
section
/-! SUPPORT. How an instruction can end, said once. -/

namespace Sys2Proof.Machine

/-- Every instruction completes, but for ILLEGAL under ILLEGAL_POLICY = signal, which reports IllegalOpcode (R86, R240). -/
theorem exec_ends (i : Instr) (s : State) :
    (∃ t, exec i s = .next t) ∨
    (∃ op, i = .illegal op ∧ s.cfg.illegalPolicy = .signal ∧ exec i s = .fault (.illegalOpcode op (s.pc - 1#16))) := by
  cases i
  case illegal op =>
    cases h : s.cfg.illegalPolicy
    · exact .inr ⟨op, rfl, rfl, by simp [exec, execIllegal, h]⟩
    · exact .inl ⟨s, by simp [exec, execIllegal, h]⟩
  all_goals exact .inl ⟨_, rfl⟩

/-- No instruction is refused. -/
theorem exec_not_refused (i : Instr) (s : State) (r : Refusal) : exec i s ≠ .refused r := by
  rcases exec_ends i s with ⟨t, h⟩ | ⟨op, _, _, h⟩ <;> simp [h]

end Sys2Proof.Machine
end

