-- ==== Sys2Proof/Laws/Fetch.lean ====
section
/-! SUPPORT. What fetching an instruction can do, said once. -/

namespace Sys2Proof

/-- An instruction has at most two operand bytes (R80). -/
theorem operandCount_le (op : Byte) : operandCount op ≤ 2 := by
  simp only [operandCount]
  split
  · rename_i r _
    cases r.mode <;> simp [Mode.operandBytes]
  · exact Nat.zero_le 2

namespace Machine

/-- A fetch advances PC past the whole instruction and changes no more than the I/O latches besides (R22, R100). -/
theorem fetchInstr_frame (s : State) :
    ∃ io, (fetchInstr s).state = (s.setIo io).setPC (s.pc + BitVec.ofNat 16 (1 + operandCount (fetchInstr s).op)) ∧
      io.keyCode = s.io.keyCode := by
  obtain ⟨io1, h1, k1⟩ := fetch8_frame s
  obtain ⟨io2, h2, k2⟩ := fetch8_frame ((s.setIo io1).setPC (s.pc + 1#16))
  obtain ⟨io3, h3, k3⟩ := fetch8_frame ((s.setIo io2).setPC (s.pc + 1#16 + 1#16))
  have hc := operandCount_le (fetch8 s).1
  simp only [fetchInstr]
  split
  · rename_i h0
    exact ⟨io1, by simp [h1, h0], k1⟩
  · rename_i h0
    refine ⟨io2, ?_, by simpa [k1] using k2⟩
    simp only [h1, h2, h0, setPC_pc]
    rw [show (1 + 1 : Nat) = 2 from rfl, BitVec.add_assoc]; rfl
  · rename_i h0 h0'
    have hn0 : operandCount (fetch8 s).1 ≠ 0 := h0
    have hn1 : operandCount (fetch8 s).1 ≠ 1 := h0'
    have hcount : operandCount (fetch8 s).1 = 2 := by omega
    refine ⟨io3, ?_, by simpa [k1, k2] using k3⟩
    have h2' : (fetch8 ((s.setIo io1).setPC (s.pc + 1#16))).2 = (s.setIo io2).setPC (s.pc + 1#16 + 1#16) := h2
    simp only [h1, h2', h3, hcount, setPC_pc]
    rw [show (1 + 2 : Nat) = 3 from rfl, BitVec.add_assoc, BitVec.add_assoc]; rfl

/-- The opcode byte of a fetch is the bus's byte at PC. -/
theorem fetchInstr_op (s : State) : (fetchInstr s).op = (busRead s.pc s).1 := by
  simp only [fetchInstr]
  split <;> rfl

end Machine

end Sys2Proof
end

