-- ==== Sys2Proof/Laws/HostOps.lean ====
section
/-! SUPPORT. The state after reset is Construct followed by Boot with nothing loaded (R271), what Boot and Load can do, and reset memory
is in canonical form. -/

namespace Sys2Proof.Machine

/-- State.reset is Boot of State.construct (R270, R273). -/
theorem hostBoot_construct : hostBoot State.construct = .next State.reset := rfl

/-- A Boot that is not refused found the machine in the Reset state (R251, R271). -/
theorem hostBoot_next {s t : State} (h : hostBoot s = .next t) : s.run = .constructed ∧ t = bootState s := by
  cases hr : s.run <;> simp only [hostBoot, hr, reduceCtorEq, Host.Outcome.next.injEq] at h
  exact ⟨rfl, h.symm⟩

/-- Reset memory has the canonical form. -/
theorem reset_mem_wf : State.reset.mem.wf := by decide

/-- A load that is not refused is the copy into the array, and its range lies in the address space (R272). -/
theorem hostLoad_next {offset : Addr} {bytes : List Byte} {s t : State} (h : hostLoad offset bytes s = .next t) :
    offset.toNat + bytes.length ≤ 65536 ∧ t = s.setMem (s.mem.writeAll offset.toNat bytes) := by
  simp only [hostLoad] at h
  split at h
  · rename_i hlen
    exact ⟨hlen, by simpa using h.symm⟩
  · simp at h

end Sys2Proof.Machine
end

