-- ==== Sys2Proof/Laws/Operands.lean ====
section
/-! SUPPORT. What the resolver and the operand accesses of Machine/Operands.lean can do, said once. -/

namespace Sys2Proof.Machine

/-- A zero-page pointer read has no side effect, and its bytes come from the array (R109, R110): with ZP_PTR_WRAP the second
one from inside the zero page. -/
theorem readZpPointer_eq (p : Byte) (s : State) :
    readZpPointer p s =
      (joinBytes (s.mem.read (if s.cfg.zpPtrWrap then (p + 1#8).toNat else p.toNat + 1)) (s.mem.read p.toNat), s) := by
  have h1 : (zext16 p + 1#16).toNat = p.toNat + 1 := by
    have := p.isLt
    simp only [BitVec.toNat_add, toNat_zext16, BitVec.toNat_ofNat]; omega
  have h2 : inIoRange (zext16 p + 1#16) = false := inIoRange_eq_false (by have := p.isLt; omega)
  simp only [readZpPointer, busRead_plain (inIoRange_zext16 p), toNat_zext16]
  split
  · rw [busRead_plain (inIoRange_zext16 _), toNat_zext16]
  · rw [busRead_plain h2, h1]

/-- Only Indirect touches anything: the resolver of every other mode leaves the state as it is (R100). -/
theorem resolve_state {o : Operand} (s : State) (ho : o.mode ≠ .ind) : (resolve o s).2 = s := by
  cases o <;> first
    | exact absurd rfl ho
    | rfl
    | simp [resolve, readZpPointer_eq]

/-- The resolver changes no more than the I/O latches, and not the key code (R100). -/
theorem resolve_frame (o : Operand) (s : State) :
    ∃ io, (resolve o s).2 = s.setIo io ∧ io.keyCode = s.io.keyCode := by
  by_cases ho : o.mode = .ind
  · cases o <;> simp only [Operand.mode, reduceCtorEq] at ho
    rename_i p
    obtain ⟨io1, h1, k1⟩ := busRead_frame p s
    obtain ⟨io2, h2, k2⟩ := busRead_frame (if loByte p = 0xFF#8 then p &&& 0xFF00#16 else p + 1#16) (s.setIo io1)
    exact ⟨io2, by simp [resolve, readPagePointer, h1, h2], by simpa [k1] using k2⟩
  · exact ⟨s.io, by simp [resolve_state s ho], rfl⟩

/-- Reading an operand changes no more than the I/O latches, and not the key code. -/
theorem readOperand_frame (o : Operand) (s : State) :
    ∃ io, (readOperand o s).2 = s.setIo io ∧ io.keyCode = s.io.keyCode := by
  obtain ⟨io1, h1, k1⟩ := resolve_frame o s
  obtain ⟨io2, h2, k2⟩ := busRead_frame (resolve o s).1 (s.setIo io1)
  cases o
  case acc => exact ⟨s.io, rfl, rfl⟩
  case imm => exact ⟨s.io, rfl, rfl⟩
  all_goals exact ⟨io2, by simp [readOperand, h1, h2], by simpa [k1] using k2⟩

/-- A memory operand of any form but Indirect is read from the bus at its effective address, and nothing else is. -/
theorem readOperand_memory {o : Operand} (s : State) (hacc : o ≠ .acc) (himm : o.mode ≠ .imm) (hind : o.mode ≠ .ind) :
    readOperand o s = busRead (resolve o s).1 s := by
  have h := resolve_state s hind
  cases o <;> first
    | exact absurd rfl hacc
    | exact absurd rfl himm
    | simp only [readOperand, h]

/-- A store changes no more than the cell at the effective address, below 0xC000, and the I/O latches. -/
theorem writeOperand_frame (o : Operand) (v : Byte) (s : State) :
    ∃ m io, writeOperand o v s = (s.setMem m).setIo io ∧ WritesOnly (resolve o s).1.toNat s.mem m ∧
      io.keyCode = s.io.keyCode := by
  obtain ⟨io1, h1, k1⟩ := resolve_frame o s
  obtain ⟨m, io2, h2, hm, k2⟩ := busWrite_frame (resolve o s).1 v (s.setIo io1)
  exact ⟨m, io2, by simp only [writeOperand, h1, h2]; rfl, by simpa using hm, by simpa [k1] using k2⟩

/-- A read-modify-write changes no more than A or the cell at the effective address, the I/O latches and the flags. -/
theorem modifyOperand_frame (f : Byte → Flags → Byte × Flags) (o : Operand) (s : State) :
    (o = .acc ∧ modifyOperand f o s = (s.setA (f s.a s.p).1).setP (f s.a s.p).2) ∨
    (o ≠ .acc ∧ ∃ m io p, modifyOperand f o s = ((s.setMem m).setIo io).setP p ∧
      WritesOnly (resolve o s).1.toNat s.mem m ∧ io.keyCode = s.io.keyCode) := by
  obtain ⟨io1, h1, k1⟩ := resolve_frame o s
  obtain ⟨io2, h2, k2⟩ := busRead_frame (resolve o s).1 (s.setIo io1)
  by_cases ho : o = .acc
  · subst ho; exact .inl ⟨rfl, rfl⟩
  · refine .inr ⟨ho, ?_⟩
    obtain ⟨m, io3, h3, hm, k3⟩ :=
      busWrite_frame (resolve o s).1 (f (busRead (resolve o s).1 (s.setIo io1)).1 s.p).1 (s.setIo io2)
    refine ⟨m, io3, (f (busRead (resolve o s).1 (s.setIo io1)).1 s.p).2, ?_, by simpa using hm, by simpa [k2, k1] using k3⟩
    have h2' : (busRead (resolve o s).1 (s.setIo io1)).2 = s.setIo io2 := h2
    cases o <;> first
      | exact absurd rfl ho
      | simp only [modifyOperand, h1, h2', setIo_p, h3]; rfl

end Sys2Proof.Machine
end

