-- ==== Sys2Proof/Laws/PerInstr.lean ====
section
/-! SUPPORT. Statements made per instruction. EncodesWellFormed: the encoder has bytes for an instruction exactly when the
instruction is well formed, so the two transcriptions of the table by mnemonic (R82) and the list of unpopulated slots (R83)
name the same forms. -/

namespace Sys2Proof.Laws.EncodesWellFormed

/-- The encoder has bytes for exactly the well-formed instructions. -/
def Statement (i : Instr) : Prop := (encode i).isSome = i.wf

theorem lda (o : Operand) : Statement (.lda o) := by cases o <;> rfl
theorem ldx (o : Operand) : Statement (.ldx o) := by cases o <;> rfl
theorem ldy (o : Operand) : Statement (.ldy o) := by cases o <;> rfl
theorem sta (o : Operand) : Statement (.sta o) := by cases o <;> rfl
theorem stx (o : Operand) : Statement (.stx o) := by cases o <;> rfl
theorem sty (o : Operand) : Statement (.sty o) := by cases o <;> rfl
theorem tax : Statement .tax := rfl
theorem tay : Statement .tay := rfl
theorem txa : Statement .txa := rfl
theorem tya : Statement .tya := rfl
theorem tsx : Statement .tsx := rfl
theorem txs : Statement .txs := rfl
theorem adc (o : Operand) : Statement (.adc o) := by cases o <;> rfl
theorem sbc (o : Operand) : Statement (.sbc o) := by cases o <;> rfl
theorem inc (o : Operand) : Statement (.inc o) := by cases o <;> rfl
theorem dec (o : Operand) : Statement (.dec o) := by cases o <;> rfl
theorem inx : Statement .inx := rfl
theorem iny : Statement .iny := rfl
theorem dex : Statement .dex := rfl
theorem dey : Statement .dey := rfl
theorem and (o : Operand) : Statement (.and o) := by cases o <;> rfl
theorem ora (o : Operand) : Statement (.ora o) := by cases o <;> rfl
theorem eor (o : Operand) : Statement (.eor o) := by cases o <;> rfl
theorem bit (o : Operand) : Statement (.bit o) := by cases o <;> rfl
theorem asl (o : Operand) : Statement (.asl o) := by cases o <;> rfl
theorem lsr (o : Operand) : Statement (.lsr o) := by cases o <;> rfl
theorem rol (o : Operand) : Statement (.rol o) := by cases o <;> rfl
theorem ror (o : Operand) : Statement (.ror o) := by cases o <;> rfl
theorem cmp (o : Operand) : Statement (.cmp o) := by cases o <;> rfl
theorem cpx (o : Operand) : Statement (.cpx o) := by cases o <;> rfl
theorem cpy (o : Operand) : Statement (.cpy o) := by cases o <;> rfl
theorem pha : Statement .pha := rfl
theorem pla : Statement .pla := rfl
theorem php : Statement .php := rfl
theorem plp : Statement .plp := rfl
theorem jmp (o : Operand) : Statement (.jmp o) := by cases o <;> rfl
theorem jsr (target : Addr) : Statement (.jsr target) := rfl
theorem rts : Statement .rts := rfl
theorem brk : Statement .brk := rfl
theorem rti : Statement .rti := rfl
theorem nop : Statement .nop := rfl
theorem clc : Statement .clc := rfl
theorem sec : Statement .sec := rfl
theorem cli : Statement .cli := rfl
theorem sei : Statement .sei := rfl
theorem cld : Statement .cld := rfl
theorem sed : Statement .sed := rfl
theorem clv : Statement .clv := rfl
theorem bcc (d : Byte) : Statement (.bcc d) := rfl
theorem bcs (d : Byte) : Statement (.bcs d) := rfl
theorem beq (d : Byte) : Statement (.beq d) := rfl
theorem bne (d : Byte) : Statement (.bne d) := rfl
theorem bmi (d : Byte) : Statement (.bmi d) := rfl
theorem bpl (d : Byte) : Statement (.bpl d) := rfl
theorem bvc (d : Byte) : Statement (.bvc d) := rfl
theorem bvs (d : Byte) : Statement (.bvs d) := rfl
theorem illegal (op : Byte) : Statement (.illegal op) := by
  simp only [Statement, encode, Instr.wf]
  split <;> simp_all

end Sys2Proof.Laws.EncodesWellFormed
end

