-- ==== Sys2Proof/Tests/Slice0.lean ====
section
/-! SUPPORT. Tests of the model's own writing: the ill-formed terms that WellFormed refuses, one word per mnemonic written out
from the spec's encodings, one step per instruction from the vectors of spec/95_test_vectors.md (each test names its vector),
and for each obligation with hypotheses a state and operands that meet them. -/

namespace Sys2Proof.Tests

open Sys2Proof.Machine Sys2Proof.Claims

/-! ## Helpers -/

/-- The start state of the vectors with the bytes of a program at `a` and PC there. -/
def progAt (a : Addr) (bytes : List Byte) : State := { State.reset with pc := a, mem := Memory.writeAll [] a.toNat bytes }

/-- The bytes at 0x0600, as most vectors have them. -/
def prog (bytes : List Byte) : State := progAt 0x0600 bytes

/-- MEM[a] <- v in a start state. -/
def poke (a : Nat) (v : Byte) (s : State) : State := s.setMem (s.mem.write a v)

/-- A view of the state after one step, none when the step does not complete. -/
def look {α : Type} (f : State → α) (s : State) : Option α :=
  match step s with
  | .next t => some (f t)
  | .fault _ => none
  | .refused _ => none

/-- The bytes decode to the instruction and nothing is left. -/
def decodesTo (bytes : List Byte) (i : Instr) : Bool :=
  match decode bytes with
  | .ok (j, rest) => decide (j = i) && rest.isEmpty
  | .error _ => false

/-- The flags N V B D I Z C, written in the order of R13. -/
def flags (n v b d i z c : Bool) : Flags := ⟨n, v, b, d, i, z, c⟩

/-! ## WellFormed refuses (R82, R83): an ill-formed term for each check -/

theorem test_wf_lda : (Instr.lda (.zpy 0x10)).wf = false := by decide
theorem test_wf_ldx : (Instr.ldx (.zpx 0x10)).wf = false := by decide
theorem test_wf_ldy : (Instr.ldy (.zpy 0x10)).wf = false := by decide
theorem test_wf_sta : (Instr.sta (.imm 0x10)).wf = false := by decide
theorem test_wf_stx : (Instr.stx (.zpx 0x10)).wf = false := by decide
theorem test_wf_sty : (Instr.sty (.absx 0x1000)).wf = false := by decide
theorem test_wf_adc : (Instr.adc .acc).wf = false := by decide
theorem test_wf_sbc : (Instr.sbc (.ind 0x1000)).wf = false := by decide
theorem test_wf_inc : (Instr.inc .acc).wf = false := by decide
theorem test_wf_dec : (Instr.dec (.absy 0x1000)).wf = false := by decide
theorem test_wf_and : (Instr.and (.zpy 0x10)).wf = false := by decide
theorem test_wf_ora : (Instr.ora (.ind 0x1000)).wf = false := by decide
theorem test_wf_eor : (Instr.eor .acc).wf = false := by decide
theorem test_wf_bit : (Instr.bit (.imm 0x10)).wf = false := by decide
theorem test_wf_asl : (Instr.asl (.imm 0x10)).wf = false := by decide
theorem test_wf_lsr : (Instr.lsr (.absy 0x1000)).wf = false := by decide
theorem test_wf_rol : (Instr.rol (.izx 0x10)).wf = false := by decide
theorem test_wf_ror : (Instr.ror (.izy 0x10)).wf = false := by decide
theorem test_wf_cmp : (Instr.cmp (.zpy 0x10)).wf = false := by decide
theorem test_wf_cpx : (Instr.cpx (.zpx 0x10)).wf = false := by decide
theorem test_wf_cpy : (Instr.cpy (.absx 0x1000)).wf = false := by decide
theorem test_wf_jmp : (Instr.jmp (.absx 0x1000)).wf = false := by decide
theorem test_wf_illegal : (Instr.illegal 0xEA).wf = false := by decide

/-! ## One word per mnemonic, from the "Encoding" and "Opcode" lines of the instruction rules -/

/-- R121 to R126. -/
theorem test_decode_load_store :
    decodesTo [0xBD, 0x00, 0x44] (.lda (.absx 0x4400)) ∧ decodesTo [0xB6, 0x10] (.ldx (.zpy 0x10)) ∧
    decodesTo [0xBC, 0x00, 0x20] (.ldy (.absx 0x2000)) ∧ decodesTo [0x91, 0x44] (.sta (.izy 0x44)) ∧
    decodesTo [0x8E, 0x34, 0x12] (.stx (.abs 0x1234)) ∧ decodesTo [0x94, 0x20] (.sty (.zpx 0x20)) := by decide

/-- R127 to R132. -/
theorem test_decode_transfer :
    decodesTo [0xAA] .tax ∧ decodesTo [0xA8] .tay ∧ decodesTo [0x8A] .txa ∧ decodesTo [0x98] .tya ∧
    decodesTo [0xBA] .tsx ∧ decodesTo [0x9A] .txs := by decide

/-- R141 to R149. -/
theorem test_decode_arithmetic :
    decodesTo [0x61, 0x44] (.adc (.izx 0x44)) ∧ decodesTo [0xF9, 0x00, 0x44] (.sbc (.absy 0x4400)) ∧
    decodesTo [0xF6, 0x10] (.inc (.zpx 0x10)) ∧ decodesTo [0xCE, 0x00, 0x03] (.dec (.abs 0x0300)) ∧
    decodesTo [0xE8] .inx ∧ decodesTo [0xC8] .iny ∧ decodesTo [0xCA] .dex ∧ decodesTo [0x88] .dey := by decide

/-- R161 to R168. -/
theorem test_decode_logic :
    decodesTo [0x29, 0x0F] (.and (.imm 0x0F)) ∧ decodesTo [0x05, 0x44] (.ora (.zp 0x44)) ∧
    decodesTo [0x55, 0x44] (.eor (.zpx 0x44)) ∧ decodesTo [0x2C, 0x00, 0xC0] (.bit (.abs 0xC000)) ∧
    decodesTo [0x0A] (.asl .acc) ∧ decodesTo [0x4E, 0x00, 0x03] (.lsr (.abs 0x0300)) ∧
    decodesTo [0x36, 0x10] (.rol (.zpx 0x10)) ∧ decodesTo [0x7E, 0x00, 0x03] (.ror (.absx 0x0300)) := by decide

/-- R181 to R183. -/
theorem test_decode_compare :
    decodesTo [0xD9, 0x00, 0x44] (.cmp (.absy 0x4400)) ∧ decodesTo [0xE0, 0x44] (.cpx (.imm 0x44)) ∧
    decodesTo [0xCC, 0x00, 0x03] (.cpy (.abs 0x0300)) := by decide

/-- R191 to R194. -/
theorem test_decode_stack :
    decodesTo [0x48] .pha ∧ decodesTo [0x68] .pla ∧ decodesTo [0x08] .php ∧ decodesTo [0x28] .plp := by decide

/-- R200 to R202. -/
theorem test_decode_jump :
    decodesTo [0x4C, 0x97, 0x55] (.jmp (.abs 0x5597)) ∧ decodesTo [0x6C, 0x97, 0x55] (.jmp (.ind 0x5597)) ∧
    decodesTo [0x20, 0x34, 0x12] (.jsr 0x1234) ∧ decodesTo [0x60] .rts := by decide

/-- R210 to R226. -/
theorem test_decode_system :
    decodesTo [0x00] .brk ∧ decodesTo [0x40] .rti ∧ decodesTo [0xEA] .nop ∧ decodesTo [0x18] .clc ∧
    decodesTo [0x38] .sec ∧ decodesTo [0x58] .cli ∧ decodesTo [0x78] .sei ∧ decodesTo [0xD8] .cld ∧
    decodesTo [0xF8] .sed ∧ decodesTo [0xB8] .clv ∧ decodesTo [0x02] (.illegal 0x02) := by decide

/-- R231 to R238. -/
theorem test_decode_branch :
    decodesTo [0x90, 0xFE] (.bcc 0xFE) ∧ decodesTo [0xB0, 0x00] (.bcs 0x00) ∧ decodesTo [0xF0, 0x7F] (.beq 0x7F) ∧
    decodesTo [0xD0, 0xFB] (.bne 0xFB) ∧ decodesTo [0x30, 0x80] (.bmi 0x80) ∧ decodesTo [0x10, 0x10] (.bpl 0x10) ∧
    decodesTo [0x50, 0x10] (.bvc 0x10) ∧ decodesTo [0x70, 0x10] (.bvs 0x10) := by decide

/-- Too few bytes are refused by name (R84). -/
theorem test_decode_truncated :
    decode [0x4C, 0x97] = .error (.truncated 0x4C) ∧ decode [] = .error .noBytes := ⟨rfl, rfl⟩

/-! ## Words as the opcode table numbers them -/

/-- The first byte is the word's least significant: JMP $1234 is 4C 34 12. -/
theorem test_table_word : decodeTableWord 24 0x12344C = some (.jmp (.abs 0x1234)) := by decide

/-- withFetchWord at reset: the next step runs the word. -/
theorem test_fetch_word : look (fun t => (t.a, t.pc)) (State.reset.withFetchWord 16 0x44A9) = some (0x44, 0x0002) := by decide

/-- withFetchWord where PC stands in the I/O range moves PC to 0x0600. -/
theorem test_fetch_word_io :
    look (fun t => (t.x, t.pc)) ((progAt 0xBFFE []).withFetchWord 16 0x07A2) = some (0x07, 0x0602) := by decide

/-! ## Loads, stores, transfers -/

/-- V12. -/
theorem test_lda_zpx_wraps :
    look (fun t => (t.a, t.pc, t.cyc)) (poke 0x0004 0x7E { prog [0xB5, 0xFF] with x := 0x05 }) = some (0x7E, 0x0602, 4) := by
  decide

/-- V16. -/
theorem test_lda_izx_pointer_wraps :
    look (fun t => (t.a, t.p.n)) (poke 0x00FF 0x34 (poke 0x0000 0x12 (poke 0x1234 0xC3 { prog [0xA1, 0xFE] with x := 0x01 }))) =
      some (0xC3, true) := by decide

/-- V19. -/
theorem test_ldx_zpy : look State.x (poke 0x0010 0x42 { prog [0xB6, 0xF0] with y := 0x20 }) = some 0x42 := by decide

/-- V20. -/
theorem test_ldy_absx :
    look (fun t => (t.y, t.p.z, t.p.n)) { prog [0xBC, 0x00, 0x20] with x := 0x05, y := 0x09 } = some (0x00, true, false) := by
  decide

/-- V27. -/
theorem test_sta_switch :
    look (fun t => (t.io.text, t.mem.read 0xC051)) { prog [0x9D, 0x00, 0xC0] with a := 0x42, x := 0x51 } = some (true, 0x00) := by
  decide

/-- V22. -/
theorem test_stx_zpy : look (fun t => t.mem.read 0x0011) { prog [0x96, 0x10] with x := 0x07, y := 0x01 } = some 0x07 := by decide

/-- V23. -/
theorem test_sty_zp :
    look (fun t => (t.mem.read 0x0020, t.p.n)) { prog [0x84, 0x20] with y := 0x99 } = some (0x99, false) := by decide

/-- V24. -/
theorem test_tax :
    look (fun t => (t.x, t.p)) { prog [0xAA] with x := 0x05, p := flags true false false false true false false } =
      some (0x00, flags false false false false true true false) := by decide

/-- R128. -/
theorem test_tay : look (fun t => (t.y, t.p.n)) { prog [0xA8] with a := 0x80 } = some (0x80, true) := by decide

/-- R129. -/
theorem test_txa : look (fun t => (t.a, t.p.n)) { prog [0x8A] with x := 0x80, y := 0x01 } = some (0x80, true) := by decide

/-- R130. -/
theorem test_tya : look (fun t => (t.a, t.p.n)) { prog [0x98] with x := 0x01, y := 0x80 } = some (0x80, true) := by decide

/-- V25. -/
theorem test_tsx : look (fun t => (t.x, t.p.n, t.sp)) { prog [0xBA] with sp := 0xFD } = some (0xFD, true, 0xFD) := by decide

/-- V26. -/
theorem test_txs :
    look (fun t => (t.sp, t.p)) { prog [0x9A] with p := flags true false false false true false false } =
      some (0x00, flags true false false false true false false) := by decide

/-! ## Arithmetic -/

/-- V31. -/
theorem test_adc_binary :
    look (fun t => (t.a, t.p)) { prog [0x69, 0x01] with a := 0x7F } =
      some (0x80, flags true true false false true false false) := by decide

/-- V36 (V2), A and C only. -/
theorem test_adc_decimal :
    look (fun t => (t.a, t.p.c)) { prog [0x69, 0x46] with a := 0x58, p := flags false false false true true false false } =
      some (0x04, true) := by decide

/-- V44. -/
theorem test_sbc_binary :
    look (fun t => (t.a, t.p)) { prog [0xE9, 0xB0] with a := 0x50, p := flags false false false false true false true } =
      some (0xA0, flags true true false false true false false) := by decide

/-- V51, A and C only. -/
theorem test_sbc_decimal :
    look (fun t => (t.a, t.p.c)) { prog [0xE9, 0x21] with a := 0x12, p := flags false false false true true false true } =
      some (0x91, false) := by decide

/-- V57. -/
theorem test_inc :
    look (fun t => (t.mem.read 0x0010, t.p.z, t.p.c, t.cyc)) (poke 0x0010 0xFF (prog [0xE6, 0x10])) =
      some (0x00, true, false, 5) := by decide

/-- V63. -/
theorem test_dec :
    look (fun t => (t.mem.read 0x0305, t.p.z, t.cyc)) (poke 0x0305 0x01 { prog [0xDE, 0x00, 0x03] with x := 0x05 }) =
      some (0x00, true, 7) := by decide

/-- V64. -/
theorem test_inx : look (fun t => (t.x, t.p.z)) { prog [0xE8] with x := 0xFF } = some (0x00, true) := by decide

/-- V65. -/
theorem test_iny : look (fun t => (t.y, t.p.n)) { prog [0xC8] with y := 0x7F } = some (0x80, true) := by decide

/-- V66. -/
theorem test_dex : look (fun t => (t.x, t.p.n)) (prog [0xCA]) = some (0xFF, true) := by decide

/-- V67. -/
theorem test_dey : look (fun t => (t.y, t.p.z)) { prog [0x88] with y := 0x01 } = some (0x00, true) := by decide

/-! ## Logic, shifts, compares -/

/-- V70. -/
theorem test_and : look (fun t => (t.a, t.p.z)) { prog [0x29, 0x0F] with a := 0xF0 } = some (0x00, true) := by decide

/-- V71. -/
theorem test_ora : look (fun t => (t.a, t.p.n)) { prog [0x09, 0x80] with a := 0x0F } = some (0x8F, true) := by decide

/-- V72. -/
theorem test_eor : look (fun t => (t.a, t.p.n)) { prog [0x49, 0xFF] with a := 0xAA } = some (0x55, false) := by decide

/-- V74. -/
theorem test_bit :
    look (fun t => (t.a, t.p)) (poke 0x0010 0xC0 { prog [0x24, 0x10] with
      a := 0x3F, p := flags false false false false true false true }) =
      some (0x3F, flags true true false false true true true) := by decide

/-- V76. -/
theorem test_bit_keyboard :
    look (fun t => (t.p.n, t.p.v, t.p.z, t.io.keyPending))
      (hostKeyPressed 0x41 { prog [0x2C, 0x00, 0xC0] with a := 0xFF }) = some (true, true, false, true) := by decide

/-- V78. -/
theorem test_asl_acc :
    look (fun t => (t.a, t.p.c)) { prog [0x0A] with a := 0x40, p := flags false false false false true false true } =
      some (0x80, false) := by decide

/-- V86. -/
theorem test_asl_zp :
    look (fun t => (t.mem.read 0x0010, t.p.c, t.p.n, t.a)) (poke 0x0010 0xC0 (prog [0x06, 0x10])) =
      some (0x80, true, true, 0x00) := by decide

/-- V80. -/
theorem test_lsr_acc :
    look (fun t => (t.a, t.p.c)) { prog [0x4A] with a := 0x80, p := flags false false false false true false true } =
      some (0x40, false) := by decide

/-- V88. -/
theorem test_rol_zpx :
    look (fun t => (t.mem.read 0x0015, t.p.c, t.p.n)) (poke 0x0015 0x55 { prog [0x36, 0x10] with
      x := 0x05, p := flags false false false false true false true }) = some (0xAB, false, true) := by decide

/-- V85. -/
theorem test_ror_acc :
    look (fun t => (t.a, t.p.c, t.p.n)) { prog [0x6A] with a := 0xB4, p := flags false false false false true false true } =
      some (0xDA, false, true) := by decide

/-- V93. -/
theorem test_cmp_ignores_carry_and_decimal :
    look (fun t => (t.a, t.p)) { prog [0xC9, 0x09] with a := 0x10, p := flags false true false true true false false } =
      some (0x10, flags false true false true true false true) := by decide

/-- V94. -/
theorem test_cpx :
    look (fun t => (t.p.c, t.p.z, t.p.n)) (poke 0x0010 0x06 { prog [0xE4, 0x10] with x := 0x05 }) =
      some (false, false, true) := by decide

/-- V95. -/
theorem test_cpy :
    look (fun t => (t.p.c, t.p.z, t.p.n)) (poke 0x0300 0x01 { prog [0xCC, 0x00, 0x03] with y := 0xFF }) =
      some (true, false, true) := by decide

/-! ## Stack, jumps, trap -/

/-- V101. -/
theorem test_pha_wraps :
    look (fun t => (t.mem.read 0x0100, t.sp)) { prog [0x48] with a := 0x42, sp := 0x00 } = some (0x42, 0xFF) := by decide

/-- V102. -/
theorem test_pla_wraps :
    look (fun t => (t.a, t.sp, t.p.n)) (poke 0x0100 0x80 (prog [0x68])) = some (0x80, 0x00, true) := by decide

/-- V61. -/
theorem test_php :
    look (fun t => t.mem.read 0x01FF) { prog [0x08] with p := flags false true true true false true false } = some 0x7A := by
  decide

/-- V62. -/
theorem test_plp :
    look State.p (poke 0x01FF 0xC3 { prog [0x28] with sp := 0xFE }) = some (flags true true false false false true true) := by
  decide

/-- V110. -/
theorem test_jmp_abs : look (fun t => (t.pc, t.cyc)) (prog [0x4C, 0x34, 0x12]) = some (0x1234, 3) := by decide

/-- V4. -/
theorem test_jmp_ind_page_bug :
    look State.pc (poke 0x3000 0x20 (poke 0x3100 0x40 (prog [0x6C, 0xFF, 0x30]))) = some 0x2000 := by decide

/-- V112. -/
theorem test_jsr_wraps :
    look (fun t => (t.pc, t.sp, t.mem.read 0x0100, t.mem.read 0x01FF)) { prog [0x20, 0x34, 0x12] with sp := 0x00 } =
      some (0x1234, 0xFE, 0x06, 0x02) := by decide

/-- V113. -/
theorem test_rts_wraps :
    look (fun t => (t.pc, t.sp)) (poke 0x01FE 0xFF (poke 0x01FF 0xFF { prog [0x60] with sp := 0xFD })) =
      some (0x0000, 0xFF) := by decide

/-- V120. -/
theorem test_brk :
    look (fun t => (t.pc, t.sp, t.p, t.mem.read 0x01FF, t.mem.read 0x01FE, t.mem.read 0x01FD))
      { prog [0x00] with vec := ⟨0, 0, 0xFA40⟩, p := flags true true false true false false true } =
      some (0xFA40, 0xFC, flags true true false true true false true, 0x06, 0x02, 0xFD) := by decide

/-- V122. -/
theorem test_rti :
    look (fun t => (t.pc, t.sp, t.p)) (poke 0x01FD 0x37 (poke 0x01FE 0x02 (poke 0x01FF 0x06 { prog [0x40] with sp := 0xFC }))) =
      some (0x0602, 0xFF, flags false false true false true true true) := by decide

/-! ## No-operation, flags, ILLEGAL -/

/-- V130. -/
theorem test_nop : look id (prog [0xEA]) = some { prog [0xEA] with pc := 0x0601, cyc := 2 } := by decide

/-- V123, V125, V127, V129: each from all flags set. -/
theorem test_clear_flags :
    look State.p { prog [0x18] with p := flags true true true true true true true } =
      some (flags true true true true true true false) ∧
    look State.p { prog [0x58] with p := flags true true true true true true true } =
      some (flags true true true true false true true) ∧
    look State.p { prog [0xD8] with p := flags true true true true true true true } =
      some (flags true true true false true true true) ∧
    look State.p { prog [0xB8] with p := flags true true true true true true true } =
      some (flags true false true true true true true) := by decide

/-- V124, V126, V128: each from all flags clear. -/
theorem test_set_flags :
    look State.p { prog [0x38] with p := flags false false false false false false false } =
      some (flags false false false false false false true) ∧
    look State.p { prog [0x78] with p := flags false false false false false false false } =
      some (flags false false false false true false false) ∧
    look State.p { prog [0xF8] with p := flags false false false false false false false } =
      some (flags false false false true false false false) := by decide

/-- V131. -/
theorem test_illegal_signal :
    step (prog [0x02, 0xFF]) = .fault (.illegalOpcode 0x02 0x0600) ∧
    stateAfterIllegal (prog [0x02, 0xFF]) = { prog [0x02, 0xFF] with pc := 0x0601 } := ⟨rfl, by decide⟩

/-- R226 under ILLEGAL_POLICY = nop. -/
theorem test_illegal_nop :
    look (fun t => (t.pc, t.cyc)) { prog [0x02, 0xFF] with cfg := { Config.recommended with illegalPolicy := .nop } } =
      some (0x0601, 0) := by decide

/-! ## Branches -/

/-- V140, V141. -/
theorem test_bne :
    look State.pc (prog [0xD0, 0xFB]) = some 0x05FD ∧
    look State.pc { prog [0xD0, 0xFB] with p := flags false false false false true true false } = some 0x0602 := by decide

/-- V142. -/
theorem test_beq :
    look (fun t => (t.pc, t.cyc)) { prog [0xF0, 0x7F] with p := flags false false false false true true false } =
      some (0x0681, 2) := by decide

/-- V150. -/
theorem test_bmi_wraps :
    look State.pc { progAt 0x0000 [0x30, 0x80] with p := flags true false false false true false false } = some 0xFF82 := by
  decide

/-- V149. -/
theorem test_bpl_wraps : look State.pc (progAt 0xFFFD [0x10, 0x10]) = some 0x000F := by decide

/-- V144. -/
theorem test_bcc : look State.pc (prog [0x90, 0xFE]) = some 0x0600 := by decide

/-- V145, and the same branch not taken. -/
theorem test_bcs :
    look State.pc { prog [0xB0, 0x10] with p := flags false false false false true false true } = some 0x0612 ∧
    look State.pc (prog [0xB0, 0x10]) = some 0x0602 := by decide

/-- V146. -/
theorem test_bvs :
    look State.pc { prog [0x70, 0x10] with p := flags false true false false true false false } = some 0x0612 := by decide

/-- V147. -/
theorem test_bvc :
    look State.pc { prog [0x50, 0x10] with p := flags false true false false true false false } = some 0x0602 := by decide

/-! ## The bus and the host -/

/-- V162: executing from the I/O range is a BRK, and the fetch has the read's side effect. -/
theorem test_execute_from_io :
    look (fun t => (t.io.text, t.sp, t.cyc)) { progAt 0xC050 [] with io := ⟨0, false, true, false, false⟩ } =
      some (false, 0xFC, 7) := by decide

/-- R58: JMP at 0xBFFE fetches its high operand byte from the key latch at 0xC000, not from the array's cell under it. -/
theorem test_operand_from_io :
    look State.pc (hostKeyPressed 0x41 (progAt 0xBFFE [0x4C, 0x34, 0x12])) = some 0xC134 := by decide

/-- R58: a key byte read at 0xC000 is an opcode, here CMP #, and its operand at 0xC001 reads 0. -/
theorem test_opcode_from_key :
    look (fun t => (t.pc, t.p.c, t.p.z, t.io.keyPending)) (hostKeyPressed 0x49 (progAt 0xC000 [])) =
      some (0xC002, true, true, true) := by decide

/-- R251, R270: Boot does not reset a running machine nor resume a halted one. -/
theorem test_boot_once :
    hostBoot State.reset = .refused .bootOutsideReset ∧
    hostBoot (hostStop State.reset) = .refused .bootOutsideReset := ⟨rfl, rfl⟩

/-- V163. -/
theorem test_key_pressed :
    (hostKeyPressed 0xC1 State.reset).io = ⟨0x41, true, false, false, false⟩ ∧
    (busRead 0xC000 (hostKeyPressed 0xC1 State.reset)).1 = 0xC1 := by decide

/-- R54: a store at 0xD000 is discarded. -/
theorem test_write_protected :
    look (fun t => t.mem.read 0xD000) (poke 0xD000 0x55 { prog [0x8D, 0x00, 0xD0] with a := 0x42 }) = some 0x55 := by decide

/-- R271 to R273: a program comes to run by Load and Boot, and the next step is its first instruction. -/
theorem test_load_boot_step :
    hostRun [.load 0x0600 [0xA9, 0x07], .load 0xFFFC [0x00, 0x06], .boot, .step] State.construct =
      .next { State.construct with
        a := 0x07
        pc := 0x0602
        mem := [(0x0600, 0xA9), (0x0601, 0x07), (0xFFFD, 0x06)]
        vec := ⟨0, 0x0600, 0⟩
        cyc := 2
        run := .running } := rfl

/-! ## The hypotheses of the obligations are met

One theorem per obligation that has hypotheses, with a state or operand for each of its clauses. -/

theorem witness_MemoryCanonicalAtResetAndAfterLoad :
    State.reset.mem.wf ∧ ∃ t, hostLoad 0xFFFF [0x12] State.reset = .next t := ⟨by decide, _, rfl⟩

theorem witness_LoadCopiesBytesPastTheBusDecode :
    State.reset.mem.wf ∧ (0xFFFE#16).toNat + [0x34#8, 0x12#8].length ≤ 65536 ∧
    65536 < (0xFFFF#16).toNat + [0x34#8, 0x12#8].length := by decide

/-- Both clauses, at each end of the life cycle. -/
theorem witness_BootCachesVectorsAndLoadsPc :
    State.construct.run = .constructed ∧ State.reset.run ≠ .constructed ∧ (hostStop State.reset).run ≠ .constructed := by decide

/-- A constructed machine; a halted one, and a host operation that it still answers. -/
theorem witness_StepOutsideTheLifecycleIsRefused :
    State.construct.run = .constructed ∧ (hostStop State.reset).run = .halted ∧
    ∃ t, hostDo (.keyPressed 0x41) (hostStop State.reset) = .next t := ⟨rfl, rfl, _, rfl⟩

/-- A write below 0xC000, in canonical memory, at both ends of the range, and the address past it. -/
theorem witness_Stored :
    (prog [0xEA]).mem.wf ∧ (0x0000#16).toNat < 0xC000 ∧ (0xBFFF#16).toNat < 0xC000 ∧ 0xC000 ≤ (0xC000#16).toNat := by decide

theorem witness_BusWriteDecodesTheAddress :
    0xC000 ≤ (0xC000#16).toNat ∧ 0xC000 ≤ (0xFFFF#16).toNat := by decide

/-- Canonical memory with SP where a push and a pull wrap. -/
theorem witness_StackPrimitives :
    (poke 0x0100 0x80 (prog [0x68])).mem.wf ∧ (poke 0x0100 0x80 (prog [0x68])).sp = 0xFF := by decide

/-- Both settings of ZP_PTR_WRAP, at the pointer 0x00FF where they differ. -/
theorem witness_EffectiveAddresses :
    (resolve (.izy 0xFF) (poke 0x0000 0x12 (poke 0x0100 0x34 (prog [])))).1 = 0x1200 ∧
    (resolve (.izy 0xFF) { poke 0x0000 0x12 (poke 0x0100 0x34 (prog [])) with
      cfg := { Config.recommended with zpPtrWrap := false } }).1 = 0x3400 := by decide

/-- Both cases of the second byte's address, at the boundary. -/
theorem witness_IndirectModeHasThePageBug :
    (0xFFFF#16).toNat % 256 = 255 ∧ ¬ (0xFFFE#16).toNat % 256 = 255 ∧ ¬ (0xFF00#16).toNat % 256 = 255 := by decide

theorem witness_OperandIsReadOnce :
    (Operand.abs 0xC010).mode ≠ .ind ∧ (Operand.imm 0x00).mode ≠ .ind ∧ Operand.acc.mode ≠ .ind := by decide

theorem witness_DecodeOfEncodeIsTheInstruction :
    (Instr.jmp (.ind 0xFFFF)).wf = true ∧ (Instr.illegal 0xFF).wf = true := by decide

theorem witness_EncodeOfDecodeIsTheBytes : ∃ i rest, decode [0x6C, 0xFF, 0x30, 0xEA] = .ok (i, rest) := ⟨_, _, rfl⟩

theorem witness_EveryOpcodeByteDecodes :
    (0x02 : Byte) ∈ unpopulated ∧ (0xFF : Byte) ∈ unpopulated ∧ ([] : List Byte).length < operandCount 0xA9 ∧
    [0x00#8].length < operandCount 0x4C := by decide

theorem witness_BaseCyclesAreTheGroupTable : encode (.sta (.absx 0xFFFF)) = some [0x9D, 0xFF, 0xFF] := by decide

/-- First clause, an opcode byte below the I/O range and an operand byte in it: the key at 0xC000. -/
theorem witness_StepRunsTheDecodedInstruction_operand : ∃ s : State, ∃ i rest, s.run = .running ∧ s.pc = 0xBFFE ∧
    decode [readByte s s.pc, readByte (afterFetch s) (afterFetch s).pc,
      readByte (afterFetch (afterFetch s)) (afterFetch (afterFetch s)).pc] = .ok (i, rest) := by
  refine ⟨hostKeyPressed 0x41 (progAt 0xBFFE [0x4C, 0x34]), .jmp (.abs 0xC134), [], by decide, by decide, ?_⟩
  have h : ∀ s : State, s = hostKeyPressed 0x41 (progAt 0xBFFE [0x4C, 0x34]) →
      [readByte s s.pc, readByte (afterFetch s) (afterFetch s).pc,
        readByte (afterFetch (afterFetch s)) (afterFetch (afterFetch s)).pc] = [0x4C, 0x34, 0xC1] := by
    rintro _ rfl
    decide
  rw [h _ rfl]; rfl

/-- First clause, the opcode byte itself a pending key read at 0xC000. -/
theorem witness_StepRunsTheDecodedInstruction_key : ∃ s : State, ∃ i rest, s.run = .running ∧ s.pc = 0xC000 ∧
    decode [readByte s s.pc, readByte (afterFetch s) (afterFetch s).pc,
      readByte (afterFetch (afterFetch s)) (afterFetch (afterFetch s)).pc] = .ok (i, rest) := by
  refine ⟨hostKeyPressed 0x49 (progAt 0xC000 []), .cmp (.imm 0x00), [0x00], by decide, by decide, ?_⟩
  have h : ∀ s : State, s = hostKeyPressed 0x49 (progAt 0xC000 []) →
      [readByte s s.pc, readByte (afterFetch s) (afterFetch s).pc,
        readByte (afterFetch (afterFetch s)) (afterFetch (afterFetch s)).pc] = [0xC9, 0x00, 0x00] := by
    rintro _ rfl
    decide
  rw [h _ rfl]; rfl

/-- Second clause, three bytes up to 0xBFFF, the last before the I/O range. -/
theorem witness_StepRunsTheDecodedInstruction : ∃ s : State, ∃ i rest, s.run = .running ∧ s.pc = 0xBFFD ∧
    decode [s.mem.read s.pc.toNat, s.mem.read (s.pc + 1#16).toNat, s.mem.read (s.pc + 2#16).toNat] = .ok (i, rest) ∧
    ∀ k, k < 3 - rest.length → inIoRange (s.pc + BitVec.ofNat 16 k) = false := by
  refine ⟨progAt 0xBFFD [0x4C, 0x34, 0x12], .jmp (.abs 0x1234), [], by decide, by decide, ?_, by decide⟩
  have h : [(progAt 0xBFFD [0x4C, 0x34, 0x12]).mem.read (progAt 0xBFFD [0x4C, 0x34, 0x12]).pc.toNat,
      (progAt 0xBFFD [0x4C, 0x34, 0x12]).mem.read ((progAt 0xBFFD [0x4C, 0x34, 0x12]).pc + 1#16).toNat,
      (progAt 0xBFFD [0x4C, 0x34, 0x12]).mem.read ((progAt 0xBFFD [0x4C, 0x34, 0x12]).pc + 2#16).toNat] = [0x4C, 0x34, 0x12] := by decide
  rw [h]; rfl

/-- Second clause, one byte at 0xBFFF, with the I/O range right after it. -/
theorem witness_StepRunsTheDecodedInstruction_last : ∃ s : State, ∃ i rest, s.run = .running ∧ s.pc = 0xBFFF ∧
    decode [s.mem.read s.pc.toNat, s.mem.read (s.pc + 1#16).toNat, s.mem.read (s.pc + 2#16).toNat] = .ok (i, rest) ∧
    ∀ k, k < 3 - rest.length → inIoRange (s.pc + BitVec.ofNat 16 k) = false := by
  refine ⟨progAt 0xBFFF [0xEA], .nop, [0, 0], by decide, by decide, ?_, by decide⟩
  have h : [(progAt 0xBFFF [0xEA]).mem.read (progAt 0xBFFF [0xEA]).pc.toNat,
      (progAt 0xBFFF [0xEA]).mem.read ((progAt 0xBFFF [0xEA]).pc + 1#16).toNat,
      (progAt 0xBFFF [0xEA]).mem.read ((progAt 0xBFFF [0xEA]).pc + 2#16).toNat] = [0xEA, 0, 0] := by decide
  rw [h]; rfl

/-- The low end of the I/O range, the keyboard address with no key. -/
theorem witness_StepInTheIoRangeRunsBrk :
    (progAt 0xC000 []).run = .running ∧ 0xC000 ≤ (progAt 0xC000 []).pc.toNat ∧ (progAt 0xC000 []).pc.toNat ≤ 0xCFFF ∧
    ¬ ((progAt 0xC000 []).pc.toNat = 0xC000 ∧ (progAt 0xC000 []).io.keyPending = true) :=
  ⟨rfl, by decide, by decide, fun h => Bool.noConfusion h.2⟩

/-- The high end. -/
theorem witness_StepInTheIoRangeRunsBrk_last :
    (progAt 0xCFFF []).run = .running ∧ 0xC000 ≤ (progAt 0xCFFF []).pc.toNat ∧ (progAt 0xCFFF []).pc.toNat ≤ 0xCFFF ∧
    ¬ ((progAt 0xCFFF []).pc.toNat = 0xC000 ∧ (progAt 0xCFFF []).io.keyPending = true) :=
  ⟨rfl, by decide, by decide, fun h => Bool.noConfusion h.2⟩

/-- A pending key that is not at PC. -/
theorem witness_StepInTheIoRangeRunsBrk_key :
    (hostKeyPressed 0x41 (progAt 0xC001 [])).io.keyPending = true ∧ (progAt 0xC001 []).run = .running ∧
      ¬ ((hostKeyPressed 0x41 (progAt 0xC001 [])).pc.toNat = 0xC000) := by decide

/-- Under each policy; and a pending key whose byte is an unpopulated opcode. -/
theorem witness_StepOfAnUnpopulatedSlot :
    (prog [0x02]).run = .running ∧ readByte (prog [0x02]) (prog [0x02]).pc ∈ unpopulated ∧
    (prog [0x02]).cfg.illegalPolicy = .signal ∧
    ({ prog [0x02] with cfg := { Config.recommended with illegalPolicy := .nop } } : State).cfg.illegalPolicy = .nop ∧
    readByte (hostKeyPressed 0x02 (progAt 0xC000 [])) 0xC000 ∈ unpopulated := by decide

theorem witness_StepEndsNormallyOrIllegal :
    (prog [0xEA]).run = .running ∧ readByte (prog [0xEA]) (prog [0xEA]).pc ∉ unpopulated ∧
    (prog [0xFF]).run = .running ∧ readByte (prog [0xFF]) (prog [0xFF]).pc ∈ unpopulated := by decide

theorem witness_StepCountsBaseCyclesOnly : ∃ t, step (prog [0x00]) = .next t := ⟨_, rfl⟩

theorem witness_LoadsWriteTheRegisterAndZN :
    (Instr.lda (.izy 0xFF)).wf = true ∧ (Instr.ldx (.zpy 0xFF)).wf = true ∧ (Instr.ldy (.absx 0xFFFF)).wf = true := by decide

theorem witness_StoresWriteOneByte :
    (Instr.sta (.izx 0xFF)).wf = true ∧ (Instr.stx (.abs 0xBFFF)).wf = true ∧ (Instr.sty (.abs 0xC000)).wf = true := by decide

theorem witness_TxsWritesTheStackPointer :
    (prog [0x9A]).cfg.txsSetsZN = false ∧
    ({ prog [0x9A] with cfg := { Config.recommended with txsSetsZN := true } } : State).cfg.txsSetsZN = true := by decide

theorem witness_AddAndSubtractFrame : (Instr.adc (.imm 0xFF)).wf = true ∧ (Instr.sbc (.izy 0xFF)).wf = true := by decide

/-- Decimal clear; and decimal set with the pseudocode's value taken. -/
theorem witness_AdcFollowsThePseudocode :
    (Instr.adc (.imm 0x01)).wf = true ∧ (prog []).p.d = false ∧
    ({ prog [] with p := flags false false false true true false false } : State).p.d = true ∧
    (prog []).cfg.decimal = .algorithm := by decide

theorem witness_SbcFollowsThePseudocode :
    (Instr.sbc (.imm 0x01)).wf = true ∧ (prog []).p.d = false ∧
    ({ prog [] with p := flags false false false true true false true } : State).p.d = true ∧
    (prog []).cfg.decimal = .algorithm := by decide

theorem witness_BinaryAdcIsAddition : (Instr.adc (.imm 0xFF)).wf = true ∧ (prog []).p.d = false := by decide

theorem witness_BinarySbcIsSubtraction : (Instr.sbc (.imm 0xFF)).wf = true ∧ (prog []).p.d = false := by decide

/-- Valid digits at the top of their range, under either treatment of what U3 leaves open. -/
theorem witness_DecimalAdcIsDecimalAddition : ∃ s : State, (Instr.adc (.imm 0x99)).wf = true ∧ s.p.d = true ∧ IsBcd s.a ∧
    IsBcd (operandByte (.imm 0x99) s) ∧ s.cfg.decimal = .cautious :=
  ⟨{ prog [] with
      a := 0x99
      p := flags false false false true true false true
      cfg := { Config.recommended with decimal := .cautious } },
    rfl, rfl, ⟨by decide, by decide⟩, ⟨by decide, by decide⟩, rfl⟩

theorem witness_DecimalSbcIsDecimalSubtraction : ∃ s : State, (Instr.sbc (.imm 0x99)).wf = true ∧ s.p.d = true ∧ IsBcd s.a ∧
    IsBcd (operandByte (.imm 0x99) s) ∧ s.cfg.decimal = .algorithm :=
  ⟨{ prog [] with a := 0x00, p := flags false false false true true false false },
    rfl, rfl, ⟨by decide, by decide⟩, ⟨by decide, by decide⟩, rfl⟩

theorem witness_IncrementAndDecrementMemory :
    (Instr.inc (.abs 0xBFFF)).wf = true ∧ (Instr.dec (.abs 0xD000)).wf = true ∧ Operand.abs 0xD000 ≠ .acc := by decide

theorem witness_LogicWritesAAndZN :
    (Instr.and (.imm 0x00)).wf = true ∧ (Instr.ora (.izx 0xFF)).wf = true ∧ (Instr.eor (.absy 0xFFFF)).wf = true := by decide

theorem witness_BitTestWritesZNV : (Instr.bit (.abs 0xC000)).wf = true := by decide

theorem witness_ShiftsOnAAndOnMemory :
    (Instr.asl (.zp 0xFF)).wf = true ∧ Operand.zp 0xFF ≠ .acc ∧ (Instr.lsr (.abs 0xC010)).wf = true ∧
    Operand.abs 0xC010 ≠ .acc := by decide

theorem witness_RotatesThroughCarry :
    (Instr.rol (.zpx 0xFF)).wf = true ∧ Operand.zpx 0xFF ≠ .acc ∧ (Instr.ror (.absx 0xFFFF)).wf = true ∧
    Operand.absx 0xFFFF ≠ .acc := by decide

theorem witness_ComparesWriteCZN :
    (Instr.cmp (.izy 0xFF)).wf = true ∧ (Instr.cpx (.imm 0xFF)).wf = true ∧ (Instr.cpy (.zp 0xFF)).wf = true := by decide

/-- Canonical memory, for PushInstructions, JsrPushesTheReturnAddress, BrkTakesTheTrap and the round trips, with SP at both
ends of its page. -/
theorem witness_canonical_memory :
    (prog [0x48, 0x68]).mem.wf ∧ ({ prog [0x48, 0x68] with sp := 0x00 } : State).mem.wf := by decide

/-- The two clauses of IllegalChangesNothing. -/
theorem witness_IllegalChangesNothing :
    State.reset.cfg.illegalPolicy = .signal ∧
    ({ State.reset with cfg := { Config.recommended with illegalPolicy := .nop } } : State).cfg.illegalPolicy = .nop := by decide

/-- Every condition of BranchesAddTheDisplacement holds in one of these states and fails in the other. -/
theorem witness_BranchesAddTheDisplacement :
    (flags true true true true true true true).c = true ∧ (flags true true true true true true true).z = true ∧
    (flags true true true true true true true).n = true ∧ (flags true true true true true true true).v = true ∧
    (flags false false false false false false false).c = false ∧ (flags false false false false false false false).z = false ∧
    (flags false false false false false false false).n = false ∧
    (flags false false false false false false false).v = false := by decide

theorem witness_OnlyDocumentedInstructionsWriteAFlag :
    ∃ t, exec .plp (poke 0x0100 0x10 (prog [])) = .next t ∧ t.p.b ≠ (prog []).p.b := ⟨_, rfl, by decide⟩

theorem witness_OnlyDocumentedInstructionsWriteARegister :
    ∃ t, Instr.inx.wf = true ∧ exec .inx (prog []) = .next t ∧ t.x ≠ (prog []).x := ⟨_, rfl, rfl, by decide⟩

theorem witness_OnlyStoringInstructionsWriteMemory :
    ∃ t, Instr.php.wf = true ∧ exec .php (prog []) = .next t ∧ t.mem ≠ (prog []).mem := ⟨_, rfl, rfl, by decide⟩

theorem witness_StepKeepsMemoryCanonical :
    ∃ t, (prog [0x08]).mem.wf ∧ step (prog [0x08]) = .next t ∧ t.mem ≠ (prog [0x08]).mem := ⟨_, by decide, rfl, by decide⟩

/-- A completed step, a pending key after it, and a state whose cache agrees with the vector slots. -/
theorem witness_StepKeepsWhatOnlyTheHostWrites :
    (∃ t, step (hostKeyPressed 0x41 (prog [0xEA])) = .next t ∧ t.io.keyPending = true) ∧
    (prog [0xEA]).vec = ⟨vectorAt (prog [0xEA]).mem 0xFFFA, vectorAt (prog [0xEA]).mem 0xFFFC,
      vectorAt (prog [0xEA]).mem 0xFFFE⟩ := ⟨⟨_, rfl, rfl⟩, by decide⟩

end Sys2Proof.Tests
end

section
/-! PROOFS. The status byte and SetZN (spec/00_scope.md R13) and the stack primitives (R12) in the words of the obligations:
the model's bits as weighted sums, its page-1 address as `stackCell`. -/

namespace Sys2Proof.Machine

open Sys2Proof.Claims

/-! ## The status byte and SetZN -/

/-- Bit 7 of a byte is its comparison with 128. -/
theorem getLsbD_seven_eq_decide (v : Byte) : v.getLsbD 7 = decide (128 ≤ v.toNat) :=
  BitVec.msb_eq_decide v

/-- A byte is 0 when its value is. -/
theorem beq_zero_eq_decide (v : Byte) : (v == 0#8) = decide (v.toNat = 0) := by
  rw [beq_eq_decide, decide_eq_decide, BitVec.toNat_eq, BitVec.toNat_zero]

theorem setZN_eq_zn (v : Byte) (p : Flags) : p.setZN v = zn v p := by
  simp only [Flags.setZN, zn, beq_zero_eq_decide, getLsbD_seven_eq_decide]

/-- The masks of the status byte do not overlap, so that joining them adds them up: a fact about eight bits. -/
theorem toNat_statusByte (b : Bool) (p : Flags) : (statusByte b p).toNat = statusSum b p := by
  obtain ⟨n, v, b', d, i, z, c⟩ := p
  simp only [statusByte, statusSum]
  clear b'
  revert n v b d i z c
  decide

/-- Settles O7: `setZN_eq_zn`, `toNat_statusByte` and `flagsOfStatus_statusByte`; SetStatus reads a byte's bits by
definition. -/
theorem statusByteAndFlagPrimitives : Obligations.StatusByteAndFlagPrimitives :=
  ⟨setZN_eq_zn, toNat_statusByte, fun _ => rfl, flagsOfStatus_statusByte⟩

/-! ## The stack -/

/-- The page-1 address of SP (R21) in numbers. -/
theorem toNat_stackAddr_eq_stackCell (sp : Byte) : (stackAddr sp).toNat = stackCell sp :=
  toNat_stackAddr sp

/-- `push_eq` with the stack address in numbers. -/
theorem push_eq_stackCell (v : Byte) (s : State) :
    push v s = (s.setMem (s.mem.write (stackCell s.sp) v)).setSP (s.sp - 1#8) := by
  rw [push_eq, toNat_stackAddr_eq_stackCell]

/-- `pull_eq` with the stack address in numbers. -/
theorem pull_eq_stackCell (s : State) :
    pull s = (s.mem.read (stackCell (s.sp + 1#8)), s.setSP (s.sp + 1#8)) := by
  rw [pull_eq, toNat_stackAddr_eq_stackCell]

/-- The decrement of a push and the increment of a pull cancel modulo 256, so the pull reads the cell the push wrote. -/
theorem pull_push {v : Byte} {s : State} (hm : s.mem.wf) :
    pull (push v s) = (v, s.setMem (s.mem.write (stackCell s.sp) v)) := by
  have hsp : s.sp - 1#8 + 1#8 = s.sp := BitVec.sub_add_cancel s.sp 1#8
  rw [push_eq_stackCell, pull_eq_stackCell]
  simp only [setSP_sp, setSP_mem, setMem_mem, setSP_setSP, hsp, Memory.read_write_same hm]
  rfl

/-- Settles O10: a push is one write at `stackCell s.sp`, which the laws of the backing array describe; a pull is
`pull_eq_stackCell`; the round trip is `pull_push`. -/
theorem stackPrimitives : Obligations.StackPrimitives := by
  refine ⟨fun v s => ⟨s.mem.write (stackCell s.sp) v, ?_, ?_, ?_⟩, pull_eq_stackCell, fun v s hm => ?_⟩
  · exact push_eq_stackCell v s
  · exact fun b hb => Memory.read_write_other hb
  · exact fun hm => Memory.read_write_same hm
  · rw [pull_push hm]
    exact ⟨rfl, rfl⟩

end Sys2Proof.Machine
end

section
/-! PROOFS. What each instruction does, said once: one equation per instruction, `exec` and the operation it calls unfolded
(spec/30_encoding.md R86), in terms of the operand accesses and stack operations that Laws/Operands.lean and Laws/Bus.lean
speak of. Later proofs rewrite with these and do not unfold an operation. -/

namespace Sys2Proof.Machine

variable (o : Operand) (d : Byte) (target : Addr) (s : State)

/-! ## Loads, stores, transfers (R120 to R132) -/

@[simp] theorem exec_lda : exec (.lda o) s =
    .next (((readOperand o s).2.setA (readOperand o s).1).setP ((readOperand o s).2.p.setZN (readOperand o s).1)) := rfl
@[simp] theorem exec_ldx : exec (.ldx o) s =
    .next (((readOperand o s).2.setX (readOperand o s).1).setP ((readOperand o s).2.p.setZN (readOperand o s).1)) := rfl
@[simp] theorem exec_ldy : exec (.ldy o) s =
    .next (((readOperand o s).2.setY (readOperand o s).1).setP ((readOperand o s).2.p.setZN (readOperand o s).1)) := rfl
@[simp] theorem exec_sta : exec (.sta o) s = .next (writeOperand o s.a s) := rfl
@[simp] theorem exec_stx : exec (.stx o) s = .next (writeOperand o s.x s) := rfl
@[simp] theorem exec_sty : exec (.sty o) s = .next (writeOperand o s.y s) := rfl
@[simp] theorem exec_tax : exec .tax s = .next ((s.setX s.a).setP (s.p.setZN s.a)) := rfl
@[simp] theorem exec_tay : exec .tay s = .next ((s.setY s.a).setP (s.p.setZN s.a)) := rfl
@[simp] theorem exec_txa : exec .txa s = .next ((s.setA s.x).setP (s.p.setZN s.x)) := rfl
@[simp] theorem exec_tya : exec .tya s = .next ((s.setA s.y).setP (s.p.setZN s.y)) := rfl
@[simp] theorem exec_tsx : exec .tsx s = .next ((s.setX s.sp).setP (s.p.setZN s.sp)) := rfl
@[simp] theorem exec_txs : exec .txs s =
    .next ((s.setSP s.x).setP (if s.cfg.txsSetsZN then s.p.setZN s.x else s.p)) := rfl

/-! ## Arithmetic (R140 to R149) -/

@[simp] theorem exec_adc : exec (.adc o) s =
    let u := (readOperand o s).2
    let out := aluAdc u.cfg.decimal u.p.d u.p.c u.a (readOperand o s).1
    .next ((u.setA out.r).setP (u.p.setAlu out)) := rfl
@[simp] theorem exec_sbc : exec (.sbc o) s =
    let u := (readOperand o s).2
    let out := aluSbc u.cfg.decimal u.p.d u.p.c u.a (readOperand o s).1
    .next ((u.setA out.r).setP (u.p.setAlu out)) := rfl
@[simp] theorem exec_inc : exec (.inc o) s = .next (modifyOperand incByte o s) := rfl
@[simp] theorem exec_dec : exec (.dec o) s = .next (modifyOperand decByte o s) := rfl
@[simp] theorem exec_inx : exec .inx s = .next ((s.setX (s.x + 1#8)).setP (s.p.setZN (s.x + 1#8))) := rfl
@[simp] theorem exec_iny : exec .iny s = .next ((s.setY (s.y + 1#8)).setP (s.p.setZN (s.y + 1#8))) := rfl
@[simp] theorem exec_dex : exec .dex s = .next ((s.setX (s.x - 1#8)).setP (s.p.setZN (s.x - 1#8))) := rfl
@[simp] theorem exec_dey : exec .dey s = .next ((s.setY (s.y - 1#8)).setP (s.p.setZN (s.y - 1#8))) := rfl

/-! ## Logic, bit test, shifts, rotates, compares (R160 to R183) -/

@[simp] theorem exec_and : exec (.and o) s =
    let u := (readOperand o s).2
    let r := u.a &&& (readOperand o s).1
    .next ((u.setA r).setP (u.p.setZN r)) := rfl
@[simp] theorem exec_ora : exec (.ora o) s =
    let u := (readOperand o s).2
    let r := u.a ||| (readOperand o s).1
    .next ((u.setA r).setP (u.p.setZN r)) := rfl
@[simp] theorem exec_eor : exec (.eor o) s =
    let u := (readOperand o s).2
    let r := u.a ^^^ (readOperand o s).1
    .next ((u.setA r).setP (u.p.setZN r)) := rfl
@[simp] theorem exec_bit : exec (.bit o) s =
    let u := (readOperand o s).2
    .next (u.setP (u.p.bitTest u.a (readOperand o s).1)) := rfl
@[simp] theorem exec_asl : exec (.asl o) s = .next (modifyOperand aslByte o s) := rfl
@[simp] theorem exec_lsr : exec (.lsr o) s = .next (modifyOperand lsrByte o s) := rfl
@[simp] theorem exec_rol : exec (.rol o) s = .next (modifyOperand rolByte o s) := rfl
@[simp] theorem exec_ror : exec (.ror o) s = .next (modifyOperand rorByte o s) := rfl
@[simp] theorem exec_cmp : exec (.cmp o) s =
    let u := (readOperand o s).2
    .next (u.setP (u.p.compare u.a (readOperand o s).1)) := rfl
@[simp] theorem exec_cpx : exec (.cpx o) s =
    let u := (readOperand o s).2
    .next (u.setP (u.p.compare u.x (readOperand o s).1)) := rfl
@[simp] theorem exec_cpy : exec (.cpy o) s =
    let u := (readOperand o s).2
    .next (u.setP (u.p.compare u.y (readOperand o s).1)) := rfl

/-! ## Stack, jumps, subroutines (R190 to R203) -/

@[simp] theorem exec_pha : exec .pha s = .next (push s.a s) := rfl
@[simp] theorem exec_pla : exec .pla s =
    .next (((pull s).2.setA (pull s).1).setP ((pull s).2.p.setZN (pull s).1)) := rfl
@[simp] theorem exec_php : exec .php s = .next (push (statusByte s.p.b s.p) s) := rfl
@[simp] theorem exec_plp : exec .plp s = .next ((pull s).2.setP (flagsOfStatus (pull s).1)) := rfl
@[simp] theorem exec_jmp : exec (.jmp o) s = .next ((resolve o s).2.setPC (resolve o s).1) := rfl
@[simp] theorem exec_jsr : exec (.jsr target) s = .next ((pushWord (s.pc - 1#16) s).setPC target) := rfl
@[simp] theorem exec_rts : exec .rts s = .next ((pullWord s).2.setPC ((pullWord s).1 + 1#16)) := rfl

/-! ## Break, return, no-operation, flags, ILLEGAL (R210 to R226) -/

@[simp] theorem exec_brk : exec .brk s = .next (takeBreak s) := rfl
@[simp] theorem exec_rti : exec .rti s = .next (returnFromBreak s) := rfl
@[simp] theorem exec_nop : exec .nop s = .next s := rfl
@[simp] theorem exec_clc : exec .clc s = .next (s.setP { s.p with c := false }) := rfl
@[simp] theorem exec_sec : exec .sec s = .next (s.setP { s.p with c := true }) := rfl
@[simp] theorem exec_cli : exec .cli s = .next (s.setP { s.p with i := false }) := rfl
@[simp] theorem exec_sei : exec .sei s = .next (s.setP { s.p with i := true }) := rfl
@[simp] theorem exec_cld : exec .cld s = .next (s.setP { s.p with d := false }) := rfl
@[simp] theorem exec_sed : exec .sed s = .next (s.setP { s.p with d := true }) := rfl
@[simp] theorem exec_clv : exec .clv s = .next (s.setP { s.p with v := false }) := rfl

/-- ILLEGAL that completes has changed nothing: ILLEGAL_POLICY is nop (R226). -/
theorem exec_illegal_next {op : Byte} {s t : State} (h : exec (.illegal op) s = .next t) : t = s := by
  cases hp : s.cfg.illegalPolicy <;> simp only [exec, execIllegal, hp, reduceCtorEq, Host.Outcome.next.injEq] at h
  exact h.symm

/-! ## Branches (R230 to R238) -/

@[simp] theorem exec_bcc : exec (.bcc d) s = .next (branchIf (!s.p.c) d s) := rfl
@[simp] theorem exec_bcs : exec (.bcs d) s = .next (branchIf s.p.c d s) := rfl
@[simp] theorem exec_beq : exec (.beq d) s = .next (branchIf s.p.z d s) := rfl
@[simp] theorem exec_bne : exec (.bne d) s = .next (branchIf (!s.p.z) d s) := rfl
@[simp] theorem exec_bmi : exec (.bmi d) s = .next (branchIf s.p.n d s) := rfl
@[simp] theorem exec_bpl : exec (.bpl d) s = .next (branchIf (!s.p.n) d s) := rfl
@[simp] theorem exec_bvc : exec (.bvc d) s = .next (branchIf (!s.p.v) d s) := rfl
@[simp] theorem exec_bvs : exec (.bvs d) s = .next (branchIf s.p.v d s) := rfl

/-! ## Operand accesses as bus accesses (R100, R144, R169) -/

/-- Reading an operand touches nothing, or is one bus read at the effective address once it is resolved. -/
theorem readOperand_cases :
    (readOperand o s).2 = s ∨ readOperand o s = busRead (resolve o s).1 (resolve o s).2 := by
  cases o with
  | acc | imm => exact .inl rfl
  | zp | zpx | zpy | abs | absx | absy | ind | izx | izy => exact .inr rfl

/-- A read-modify-write in a memory form: one read and one write at the effective address, then the flags. -/
theorem modifyOperand_memory (f : Byte → Flags → Byte × Flags) {o : Operand} (s : State) (ho : o ≠ .acc) :
    modifyOperand f o s =
      let r := busRead (resolve o s).1 (resolve o s).2
      (busWrite (resolve o s).1 (f r.1 r.2.p).1 r.2).setP (f r.1 r.2.p).2 := by
  cases o with
  | acc => exact absurd rfl ho
  | imm | zp | zpx | zpy | abs | absx | absy | ind | izx | izy => rfl

end Sys2Proof.Machine
end

section
/-! PROOFS. What every step keeps (spec/10_state.md R25, R27, R29, R30; spec/20_memory.md R54): one relation between the state
before and the state after, which every bus access and every register write meets and which composes, and from it the two
invariants of a step. -/

namespace Sys2Proof.Machine

/-! ## The relation -/

/-- What no part of a step changes from s to t: the canonical form of memory, every cell from 0xC000 up, the cached vectors,
the key code, the parameters and the run state; KEY_PENDING is not raised and CYC not lowered. -/
structure StepFrame (s t : State) : Prop where
  wf : s.mem.wf → t.mem.wf
  high : ∀ b, 0xC000 ≤ b → t.mem.read b = s.mem.read b
  vec : t.vec = s.vec
  keyCode : t.io.keyCode = s.io.keyCode
  keyPending : t.io.keyPending = true → s.io.keyPending = true
  cfg : t.cfg = s.cfg
  run : t.run = s.run
  cyc : s.cyc ≤ t.cyc

theorem StepFrame.refl (s : State) : StepFrame s s :=
  ⟨id, fun _ _ => rfl, rfl, rfl, id, rfl, rfl, le_rfl⟩

theorem StepFrame.trans {s t u : State} (h : StepFrame s t) (k : StepFrame t u) : StepFrame s u where
  wf := k.wf ∘ h.wf
  high b hb := (k.high b hb).trans (h.high b hb)
  vec := k.vec.trans h.vec
  keyCode := k.keyCode.trans h.keyCode
  keyPending := h.keyPending ∘ k.keyPending
  cfg := k.cfg.trans h.cfg
  run := k.run.trans h.run
  cyc := h.cyc.trans k.cyc

/-- The registers and the flag latch are free. -/
theorem StepFrame.registers {s t : State} (h : StepFrame s t) (a x y sp : Byte) (pc : Addr) (p : Flags) :
    StepFrame s { t with a := a, x := x, y := y, sp := sp, pc := pc, p := p } :=
  ⟨h.wf, h.high, h.vec, h.keyCode, h.keyPending, h.cfg, h.run, h.cyc⟩

theorem StepFrame.addCycles {s t : State} (h : StepFrame s t) (n : Nat) : StepFrame s (t.addCycles n) :=
  ⟨h.wf, h.high, h.vec, h.keyCode, h.keyPending, h.cfg, h.run, Nat.le_add_right_of_le h.cyc⟩

/-- A bus access: one cell below 0xC000 and the I/O latches, with no key queued. -/
theorem StepFrame.access {a : Nat} {s : State} {m : Memory} {io : IoLatches} (hm : WritesOnly a s.mem m)
    (hcode : io.keyCode = s.io.keyCode) (hpending : io.keyPending = true → s.io.keyPending = true) :
    StepFrame s ((s.setMem m).setIo io) :=
  ⟨hm.1, hm.2.2, rfl, hcode, hpending, rfl, rfl, le_rfl⟩

/-! ## Bus accesses and the stack -/

/-- A display switch leaves KEY_PENDING alone (R53). -/
theorem applySwitch_keyPending (a : Addr) (io : IoLatches) : (applySwitch a io).keyPending = io.keyPending := by
  simp only [applySwitch]; split_ifs <;> rfl

/-- No read queues a key (R51). -/
theorem busRead_keyPending (a : Addr) (s : State) :
    (busRead a s).2.io.keyPending = true → s.io.keyPending = true := by
  simp only [busRead]
  split_ifs <;> simp [applySwitch_keyPending]

/-- No write queues a key (R52). -/
theorem busWrite_keyPending (a : Addr) (v : Byte) (s : State) :
    (busWrite a v s).io.keyPending = true → s.io.keyPending = true := by
  simp only [busWrite]
  split_ifs <;> simp [applySwitch_keyPending]

theorem busRead_stepFrame (a : Addr) (s : State) : StepFrame s (busRead a s).2 := by
  obtain ⟨io, h, hcode⟩ := busRead_frame a s
  have hpending := busRead_keyPending a s
  rw [h] at hpending ⊢
  exact .access (.refl a.toNat s.mem) hcode hpending

theorem busWrite_stepFrame (a : Addr) (v : Byte) (s : State) : StepFrame s (busWrite a v s) := by
  obtain ⟨m, io, h, hm, hcode⟩ := busWrite_frame a v s
  have hpending := busWrite_keyPending a v s
  rw [h] at hpending ⊢
  exact .access hm hcode hpending

theorem push_stepFrame (v : Byte) (s : State) : StepFrame s (push v s) :=
  (busWrite_stepFrame _ v s).registers ..

theorem pushWord_stepFrame (w : Addr) (s : State) : StepFrame s (pushWord w s) :=
  (push_stepFrame _ s).trans (push_stepFrame _ _)

theorem pull_stepFrame (s : State) : StepFrame s (pull s).2 := by
  rw [pull_eq]
  exact (StepFrame.refl s).registers ..

theorem pullWord_stepFrame (s : State) : StepFrame s (pullWord s).2 :=
  (pull_stepFrame s).trans (pull_stepFrame _)

theorem takeBreak_stepFrame (s : State) : StepFrame s (takeBreak s) :=
  (((StepFrame.refl s).registers (p := { s.p with i := true }) ..).trans
    ((pushWord_stepFrame _ _).trans (push_stepFrame _ _))).registers ..

theorem returnFromBreak_stepFrame (s : State) : StepFrame s (returnFromBreak s) := by
  rw [returnFromBreak_eq]
  exact (StepFrame.refl s).registers ..

theorem branchIf_stepFrame (cond : Bool) (d : Byte) (s : State) : StepFrame s (branchIf cond d s) := by
  obtain ⟨pc, h⟩ := branchIf_frame cond d s
  rw [h]
  exact (StepFrame.refl s).registers ..

/-! ## Operands -/

/-- Only a pointer makes the resolver read the bus, twice (R108 to R110). -/
theorem resolve_stepFrame (o : Operand) (s : State) : StepFrame s (resolve o s).2 := by
  cases o with
  | ind | izx | izy => exact (busRead_stepFrame _ s).trans (busRead_stepFrame _ _)
  | acc | imm | zp | zpx | zpy | abs | absx | absy => exact .refl s

theorem readOperand_stepFrame (o : Operand) (s : State) : StepFrame s (readOperand o s).2 := by
  rcases readOperand_cases o s with h | h <;> rw [h]
  · exact .refl s
  · exact (resolve_stepFrame o s).trans (busRead_stepFrame _ _)

theorem writeOperand_stepFrame (o : Operand) (v : Byte) (s : State) : StepFrame s (writeOperand o v s) :=
  (resolve_stepFrame o s).trans (busWrite_stepFrame _ v _)

theorem modifyOperand_stepFrame (f : Byte → Flags → Byte × Flags) (o : Operand) (s : State) :
    StepFrame s (modifyOperand f o s) := by
  by_cases ho : o = .acc
  · subst ho
    exact (StepFrame.refl s).registers ..
  · rw [modifyOperand_memory f s ho]
    exact (((resolve_stepFrame o s).trans (busRead_stepFrame _ _)).trans (busWrite_stepFrame _ _ _)).registers ..

/-! ## Instructions and steps -/

theorem exec_stepFrame {i : Instr} {s t : State} (h : exec i s = .next t) : StepFrame s t := by
  cases i with
  | lda o | ldx o | ldy o | adc o | sbc o | and o | ora o | eor o | bit o | cmp o | cpx o | cpy o =>
    simp only [exec_lda, exec_ldx, exec_ldy, exec_adc, exec_sbc, exec_and, exec_ora, exec_eor, exec_bit, exec_cmp,
      exec_cpx, exec_cpy, Host.Outcome.next.injEq] at h
    subst h
    exact (readOperand_stepFrame o s).registers ..
  | sta o | stx o | sty o =>
    simp only [exec_sta, exec_stx, exec_sty, Host.Outcome.next.injEq] at h
    exact h ▸ writeOperand_stepFrame o _ s
  | inc o | dec o | asl o | lsr o | rol o | ror o =>
    simp only [exec_inc, exec_dec, exec_asl, exec_lsr, exec_rol, exec_ror, Host.Outcome.next.injEq] at h
    exact h ▸ modifyOperand_stepFrame _ o s
  | tax | tay | txa | tya | tsx | txs | inx | iny | dex | dey | nop | clc | sec | cli | sei | cld | sed | clv =>
    cases h
    exact (StepFrame.refl s).registers ..
  | pha | php =>
    simp only [exec_pha, exec_php, Host.Outcome.next.injEq] at h
    exact h ▸ push_stepFrame _ s
  | pla | plp =>
    simp only [exec_pla, exec_plp, Host.Outcome.next.injEq] at h
    subst h
    exact (pull_stepFrame s).registers ..
  | jmp o =>
    rw [exec_jmp, Host.Outcome.next.injEq] at h
    subst h
    exact (resolve_stepFrame o s).registers ..
  | jsr target =>
    rw [exec_jsr, Host.Outcome.next.injEq] at h
    subst h
    exact (pushWord_stepFrame _ s).registers ..
  | rts =>
    rw [exec_rts, Host.Outcome.next.injEq] at h
    subst h
    exact (pullWord_stepFrame s).registers ..
  | brk =>
    rw [exec_brk, Host.Outcome.next.injEq] at h
    exact h ▸ takeBreak_stepFrame s
  | rti =>
    rw [exec_rti, Host.Outcome.next.injEq] at h
    exact h ▸ returnFromBreak_stepFrame s
  | bcc d | bcs d | beq d | bne d | bmi d | bpl d | bvc d | bvs d =>
    simp only [exec_bcc, exec_bcs, exec_beq, exec_bne, exec_bmi, exec_bpl, exec_bvc, exec_bvs,
      Host.Outcome.next.injEq] at h
    exact h ▸ branchIf_stepFrame _ d s
  | illegal op => exact exec_illegal_next h ▸ .refl s

theorem fetch8_stepFrame (s : State) : StepFrame s (fetch8 s).2 :=
  (busRead_stepFrame s.pc s).registers ..

theorem fetchInstr_stepFrame (s : State) : StepFrame s (fetchInstr s).state := by
  have h1 := fetch8_stepFrame s
  have h2 := h1.trans (fetch8_stepFrame _)
  have h3 := h2.trans (fetch8_stepFrame _)
  simp only [fetchInstr]
  split
  · exact h1
  · exact h2
  · exact h3

/-- A step that completes found the machine running, ran the fetched instruction, and added its cycles (R86, R271). -/
theorem step_next {s t : State} (h : step s = .next t) :
    s.run = .running ∧ ∃ u, t = u.addCycles (baseCycles (fetchInstr s).op) ∧
      exec (decodeOp (fetchInstr s).op (fetchInstr s).b1 (fetchInstr s).b2) (fetchInstr s).state = .next u := by
  cases hr : s.run <;> simp only [step, hr, reduceCtorEq] at h
  obtain ⟨u, hu, ht⟩ := retire_next h
  exact ⟨rfl, u, ht, hu⟩

theorem step_stepFrame {s t : State} (h : step s = .next t) : StepFrame s t := by
  obtain ⟨-, u, rfl, hu⟩ := step_next h
  exact ((fetchInstr_stepFrame s).trans (exec_stepFrame hu)).addCycles _

/-! ## The invariants -/

/-- A vector slot from 0xC000 up holds what it held. -/
theorem StepFrame.vectorAt_eq {s t : State} (h : StepFrame s t) {a : Nat} (ha : 0xC000 ≤ a) :
    vectorAt t.mem a = vectorAt s.mem a := by
  rw [vectorAt, vectorAt, h.high a ha, h.high (a + 1) (Nat.le_succ_of_le ha)]

/-- Settles O59: the canonical form is a part of `StepFrame`, which every step meets. -/
theorem stepKeepsMemoryCanonical : Obligations.StepKeepsMemoryCanonical :=
  fun _ _ hm h => (step_stepFrame h).wf hm

/-- Settles O60: `StepFrame` again; the vector slots lie above 0xC000, so that cache and slots stay in agreement. -/
theorem stepKeepsWhatOnlyTheHostWrites : Obligations.StepKeepsWhatOnlyTheHostWrites := by
  refine ⟨fun s t h => ?_, fun s t hvec h => ?_⟩
  · have hf := step_stepFrame h
    exact ⟨hf.high, hf.vec, hf.keyCode, hf.cfg, hf.run.trans (step_next h).1, hf.keyPending, hf.cyc⟩
  · have hf := step_stepFrame h
    show t.vec = _
    rw [hf.vec, hvec, hf.vectorAt_eq (by decide), hf.vectorAt_eq (by decide), hf.vectorAt_eq (by decide)]

/-! ## Reset and Load -/

/-- Settles O1: every value is read off `State.reset`, which `hostBoot_construct` says is Boot of `State.construct`. -/
theorem resetStateValues : Obligations.ResetStateValues :=
  ⟨rfl, rfl, rfl, rfl, rfl, rfl, rfl, fun _ => rfl, rfl, hostBoot_construct, rfl, rfl, rfl, rfl⟩

/-- Settles O2: `reset_mem_wf`, and a Load that is not refused is a `Memory.writeAll` inside the address space. -/
theorem memoryCanonicalAtResetAndAfterLoad : Obligations.MemoryCanonicalAtResetAndAfterLoad := by
  refine ⟨reset_mem_wf, fun offset bytes s t hm h => ?_⟩
  obtain ⟨hlen, rfl⟩ := hostLoad_next h
  exact Memory.wf_writeAll hm hlen

end Sys2Proof.Machine
end

section
/-! PROOFS. Which instructions may change a flag or a register (spec/10_state.md R20 to R24), over all instructions. The cases
are the groups of instructions that share an operand access or a stack operation, whose frame says what the group leaves. -/

namespace Sys2Proof.Machine

/-! ## The flags of a read-modify-write: Z, N and, for a shift or rotate, C (R143, R169) -/

@[simp] theorem aslByte_flags (m : Byte) (p : Flags) :
    (aslByte m p).2 = Flags.setZN (aslByte m p).1 { p with c := m.getLsbD 7 } := rfl
@[simp] theorem lsrByte_flags (m : Byte) (p : Flags) :
    (lsrByte m p).2 = Flags.setZN (lsrByte m p).1 { p with c := m.getLsbD 0 } := rfl
@[simp] theorem rolByte_flags (m : Byte) (p : Flags) :
    (rolByte m p).2 = Flags.setZN (rolByte m p).1 { p with c := m.getLsbD 7 } := rfl
@[simp] theorem rorByte_flags (m : Byte) (p : Flags) :
    (rorByte m p).2 = Flags.setZN (rorByte m p).1 { p with c := m.getLsbD 0 } := rfl
@[simp] theorem incByte_flags (m : Byte) (p : Flags) : (incByte m p).2 = Flags.setZN (incByte m p).1 p := rfl
@[simp] theorem decByte_flags (m : Byte) (p : Flags) : (decByte m p).2 = Flags.setZN (decByte m p).1 p := rfl

/-- The byte a read-modify-write operation works on (R144, R169). -/
def modifiedByte (o : Operand) (s : State) : Byte :=
  match o with
  | .acc => s.a
  | o => (busRead (resolve o s).1 (resolve o s).2).1

/-! ## What the operand accesses and a branch leave of the registers and flags -/

/-- The resolver's pointer reads leave every register and flag (R100). -/
theorem resolve_registers (o : Operand) (s : State) :
    (resolve o s).2.a = s.a ∧ (resolve o s).2.x = s.x ∧ (resolve o s).2.y = s.y ∧ (resolve o s).2.sp = s.sp ∧
      (resolve o s).2.pc = s.pc ∧ (resolve o s).2.p = s.p := by
  obtain ⟨io, h, -⟩ := resolve_frame o s
  simp [h]

/-- So does reading an operand. -/
theorem readOperand_registers (o : Operand) (s : State) :
    (readOperand o s).2.a = s.a ∧ (readOperand o s).2.x = s.x ∧ (readOperand o s).2.y = s.y ∧
      (readOperand o s).2.sp = s.sp ∧ (readOperand o s).2.pc = s.pc ∧ (readOperand o s).2.p = s.p := by
  obtain ⟨io, h, -⟩ := readOperand_frame o s
  simp [h]

/-- So does a store (R120). -/
theorem writeOperand_registers (o : Operand) (v : Byte) (s : State) :
    (writeOperand o v s).a = s.a ∧ (writeOperand o v s).x = s.x ∧ (writeOperand o v s).y = s.y ∧
      (writeOperand o v s).sp = s.sp ∧ (writeOperand o v s).pc = s.pc ∧ (writeOperand o v s).p = s.p := by
  obtain ⟨m, io, h, -⟩ := writeOperand_frame o v s
  simp [h]

/-- A read-modify-write leaves every register but A, and A too in its memory forms (R144, R169). -/
theorem modifyOperand_registers (f : Byte → Flags → Byte × Flags) (o : Operand) (s : State) :
    (o ≠ .acc → (modifyOperand f o s).a = s.a) ∧ (modifyOperand f o s).x = s.x ∧ (modifyOperand f o s).y = s.y ∧
      (modifyOperand f o s).sp = s.sp ∧ (modifyOperand f o s).pc = s.pc := by
  rcases modifyOperand_frame f o s with ⟨ho, h⟩ | ⟨ho, m, io, p, h, -⟩ <;> rw [h] <;> simp [ho]

/-- The flags after a read-modify-write are the operation's, from the byte it works on and the flags before. -/
theorem modifyOperand_p (f : Byte → Flags → Byte × Flags) (o : Operand) (s : State) :
    (modifyOperand f o s).p = (f (modifiedByte o s) s.p).2 := by
  by_cases ho : o = .acc
  · subst ho
    rfl
  · obtain ⟨io, hread, -⟩ := busRead_frame (resolve o s).1 (resolve o s).2
    have hbyte : modifiedByte o s = (busRead (resolve o s).1 (resolve o s).2).1 := by
      cases o with
      | acc => exact absurd rfl ho
      | imm | zp | zpx | zpy | abs | absx | absy | ind | izx | izy => rfl
    simp [modifyOperand_memory f s ho, hbyte, hread, resolve_registers]

/-- A branch leaves every register but PC, and every flag (R230). -/
theorem branchIf_registers (cond : Bool) (d : Byte) (s : State) :
    (branchIf cond d s).a = s.a ∧ (branchIf cond d s).x = s.x ∧ (branchIf cond d s).y = s.y ∧
      (branchIf cond d s).sp = s.sp ∧ (branchIf cond d s).p = s.p := by
  obtain ⟨pc, h⟩ := branchIf_frame cond d s
  simp [h]

/-! ## The two tables -/

/-- Settles O56: the flags an instruction leaves, group by group: an operand access leaves them all, and what the instruction
then writes is a flag computation of Laws/State.lean. -/
theorem onlyDocumentedInstructionsWriteAFlag : Obligations.OnlyDocumentedInstructionsWriteAFlag := by
  intro i s
  cases i with
  | lda | ldx | ldy | adc | sbc | and | ora | eor | bit | cmp | cpx | cpy => simp [readOperand_registers]
  | sta | stx | sty => simp [writeOperand_registers]
  | inc | dec | asl | lsr | rol | ror => simp [modifyOperand_p]
  | tax | tay | txa | tya | tsx | inx | iny | dex | dey | nop | clc | sec | cli | sei | cld | sed | clv => simp
  | txs => cases h : s.cfg.txsSetsZN <;> simp [h]
  | pha | php => simp [push_eq]
  | pla | plp => simp [pull_eq]
  | jmp => simp [resolve_registers]
  | jsr => simp [pushWord_eq]
  | rts => simp [pullWord_eq]
  | brk => simp [takeBreak_eq]
  | rti => simp
  | bcc | bcs | beq | bne | bmi | bpl | bvc | bvs => simp [branchIf_registers]
  | illegal =>
    intro t h
    simp [exec_illegal_next h]

/-- INC and DEC have no Accumulator form (R82). -/
theorem ne_acc_of_incModes {o : Operand} (h : incModes.contains o.mode = true) : o ≠ .acc := by
  rintro rfl
  exact absurd h (by decide)

/-- Settles O57: the registers an instruction leaves, group by group. A shift or rotate changes A on the Accumulator form
alone, and INC and DEC, which have no such form, never. -/
theorem onlyDocumentedInstructionsWriteARegister : Obligations.OnlyDocumentedInstructionsWriteARegister := by
  intro i s t hwf
  revert t
  cases i with
  | lda | ldx | ldy | adc | sbc | and | ora | eor | bit | cmp | cpx | cpy => simp [readOperand_registers]
  | sta | stx | sty => simp [writeOperand_registers]
  | inc | dec => simp [modifyOperand_registers, ne_acc_of_incModes hwf]
  | asl o | lsr o | rol o | ror o => by_cases ho : o = .acc <;> simp [modifyOperand_registers, ho]
  | tax | tay | txa | tya | tsx | txs | inx | iny | dex | dey | nop | clc | sec | cli | sei | cld | sed | clv => simp
  | pha | php => simp [push_eq]
  | pla | plp => simp [pull_eq]
  | jmp => simp [resolve_registers]
  | jsr => simp [pushWord_eq]
  | rts => simp [pullWord_eq]
  | brk => simp [takeBreak_eq]
  | rti => simp [returnFromBreak_eq]
  | bcc | bcs | beq | bne | bmi | bpl | bvc | bvs => simp [branchIf_registers]
  | illegal =>
    intro t h
    simp [exec_illegal_next h]

end Sys2Proof.Machine
end

section
/-! PROOFS. The bus decoder (spec/20_memory.md R51 to R54) in the words of the obligations: the side effect of an access on the
I/O latches as `ioAfter`, the byte a read gives as `readByte`, the fetch of a byte as `afterFetch`; and the step in the I/O
range (R58). -/

namespace Sys2Proof.Machine

open Sys2Proof.Claims

/-! ## The side effect of an access on the I/O latches (R51 to R53) -/

/-- The I/O range in numbers (R59). -/
theorem inIoRange_iff (a : Addr) : inIoRange a = true ↔ 0xC000 ≤ a.toNat ∧ a.toNat ≤ 0xCFFF := by
  simp [inIoRange]

/-- The strobe clears the pending flag and is no display switch. -/
theorem ioAfter_keyStrobeAddr (on : Bool) (io : IoLatches) :
    ioAfter on keyStrobeAddr io = { io with keyPending := false } := by
  simp [ioAfter, keyStrobeAddr]

/-- A display switch acts when an access of its kind triggers it: one case per switch. -/
theorem ioAfter_of_mem_displaySwitches {a : Addr} (h : a ∈ displaySwitches) (on : Bool) (io : IoLatches) :
    ioAfter on a io = if on then applySwitch a io else io := by
  simp only [displaySwitches, List.mem_cons, List.not_mem_nil, or_false] at h
  rcases h with rfl | rfl | rfl | rfl | rfl | rfl <;> cases on <;> simp [ioAfter, applySwitch]

/-- At every other address an access has no side effect. -/
theorem ioAfter_of_not_mem {a : Addr} (hs : a ≠ keyStrobeAddr) (hd : a ∉ displaySwitches) (on : Bool) (io : IoLatches) :
    ioAfter on a io = io := by
  simp only [displaySwitches, keyStrobeAddr, List.mem_cons, List.not_mem_nil, or_false, not_or, ne_eq,
    BitVec.toNat_eq, BitVec.reduceToNat] at hs hd
  simp [ioAfter, hs, hd]

/-- The model's three cases of a bus access in the I/O range, read or write, are `ioAfter`. -/
theorem ioAfter_eq (on : Bool) (a : Addr) (io : IoLatches) :
    ioAfter on a io =
      if a = keyStrobeAddr then { io with keyPending := false }
      else if displaySwitches.contains a && on then applySwitch a io
      else io := by
  by_cases hs : a = keyStrobeAddr
  · subst hs
    simp [ioAfter_keyStrobeAddr]
  · by_cases hd : a ∈ displaySwitches
    · simp [ioAfter_of_mem_displaySwitches hd, hs, hd]
    · simp [ioAfter_of_not_mem hs hd, hs, hd]

/-- Outside the I/O range an access has no side effect (R58). -/
theorem ioAfter_plain {a : Addr} (h : inIoRange a = false) (on : Bool) (io : IoLatches) : ioAfter on a io = io := by
  refine ioAfter_of_not_mem ?_ (fun hd => ?_) on io
  · rintro rfl
    exact absurd h (by decide)
  · have hall : displaySwitches.all inIoRange = true := by decide
    exact absurd h (ne_false_of_eq_true (List.all_eq_true.1 hall a hd))

/-! ## Reads (R51) -/

/-- The key byte in numbers: bit 7 is added to a seven-bit code. -/
theorem keyByte_eq (io : IoLatches) :
    keyByte io = if io.keyPending then BitVec.ofNat 8 (0x80 + io.keyCode.toNat) else 0 := by
  have hcode : ∀ code : BitVec 7, 0x80#8 ||| code.setWidth 8 = BitVec.ofNat 8 (0x80 + code.toNat) := by decide
  rw [keyByte, hcode]

/-- `readByte` by the model's test of the I/O range. -/
theorem readByte_eq (s : State) (a : Addr) :
    readByte s a =
      if inIoRange a then (if a = keyDataAddr then keyByte s.io else 0) else s.mem.read a.toNat := by
  have hkey : a = keyDataAddr ↔ a.toNat = 0xC000 := BitVec.toNat_eq
  by_cases hio : inIoRange a = true
  · have hrange := (inIoRange_iff a).1 hio
    rw [if_pos hio, readByte, if_neg (by omega)]
    by_cases ha : a.toNat = 0xC000 <;> simp [hkey, ha, keyByte_eq]
  · have hrange := mt (inIoRange_iff a).2 hio
    rw [if_neg hio, readByte, if_pos (by omega)]

/-- In the I/O range the keyboard data address is a case of its own: it alone gives a byte other than 0, and it has no side
effect. -/
theorem busRead_eq (a : Addr) (s : State) :
    busRead a s = (readByte s a, s.setIo (ioAfter s.cfg.switchOnRead a s.io)) := by
  cases hio : inIoRange a with
  | false => simp [busRead_plain hio, readByte_eq, ioAfter_plain hio, hio]
  | true =>
    by_cases hk : a = keyDataAddr
    · have hnone : ioAfter s.cfg.switchOnRead a s.io = s.io := by
        subst hk
        exact ioAfter_of_not_mem (by decide) (by decide) _ _
      simp only [busRead, readByte_eq, hnone, setIo_self, if_pos hio, if_pos hk]
    · simp only [busRead, readByte_eq, ioAfter_eq, hio, hk, if_true, if_false]
      split_ifs <;> rfl

/-- Settles O8: `busRead_eq`. -/
theorem busReadDecodesTheAddress : Obligations.BusReadDecodesTheAddress := busRead_eq

/-! ## Writes (R52, R54) -/

/-- From 0xC000 up a write stores nothing. -/
theorem busWrite_of_le {a : Addr} (h : 0xC000 ≤ a.toNat) (v : Byte) (s : State) :
    busWrite a v s = s.setIo (ioAfter s.cfg.switchOnWrite a s.io) := by
  cases hio : inIoRange a with
  | false =>
    have hrange := mt (inIoRange_iff a).2 (ne_true_of_eq_false hio)
    have hrom : inRom a = true := by simp [inRom]; omega
    simp [busWrite, hio, hrom, ioAfter_plain hio]
  | true =>
    simp only [busWrite, ioAfter_eq, hio, if_true]
    split_ifs <;> rfl

/-- Settles O9: below 0xC000 a write is the array's, which the laws of the backing array describe (`busWrite_plain`); from there
up it is its side effect alone (`busWrite_of_le`). -/
theorem busWriteDecodesTheAddress : Obligations.BusWriteDecodesTheAddress := by
  intro a v s
  by_cases ha : a.toNat < 0xC000
  · refine ⟨s.mem.write a.toNat v, ?_, ⟨fun b hb => ?_, fun hm _ => ?_⟩, fun h => ?_⟩
    · rw [busWrite_plain ha, ioAfter_plain (inIoRange_eq_false ha)]
      rfl
    · exact Memory.read_write_other (by omega)
    · exact Memory.read_write_same hm
    · omega
  · have hle : 0xC000 ≤ a.toNat := by omega
    exact ⟨s.mem, busWrite_of_le hle v s, ⟨fun _ _ => rfl, fun _ h => absurd h ha⟩, fun _ => rfl⟩

/-! ## The fetch, and the step in the I/O range (R11, R58, R86) -/

theorem fetch8_eq (s : State) : fetch8 s = (readByte s s.pc, afterFetch s) := by
  simp only [fetch8, busRead_eq]
  rfl

/-- A one-byte instruction's fetch is the fetch of its opcode byte. -/
theorem fetchInstr_of_operandCount_zero {s : State} (h : operandCount (readByte s s.pc) = 0) :
    fetchInstr s = ⟨readByte s s.pc, 0, 0, afterFetch s⟩ := by
  simp only [fetchInstr, fetch8_eq, h]

/-- A step of a running machine (R86). -/
theorem step_of_running {s : State} (h : s.run = .running) :
    step s = retire (baseCycles (fetchInstr s).op)
      (exec (decodeOp (fetchInstr s).op (fetchInstr s).b1 (fetchInstr s).b2) (fetchInstr s).state) := by
  simp only [step, h]

/-- The I/O range reads as 0x00, but for a pending key (R51). -/
theorem readByte_eq_zero {a : Addr} {s : State} (hlo : 0xC000 ≤ a.toNat) (hhi : a.toNat ≤ 0xCFFF)
    (hkey : ¬ (a.toNat = 0xC000 ∧ s.io.keyPending = true)) : readByte s a = 0 := by
  rw [readByte, if_neg (by omega), if_neg hkey]

/-- Settles O20: the opcode byte is 0x00 (`readByte_eq_zero`), the slot of BRK, which has no operand byte and 7 cycles. -/
theorem stepInTheIoRangeRunsBrk : Obligations.StepInTheIoRangeRunsBrk := by
  intro s hrun hlo hhi hkey
  have hop : readByte s s.pc = 0 := readByte_eq_zero hlo hhi hkey
  have hcount : operandCount (readByte s s.pc) = 0 := by rw [hop]; rfl
  rw [step_of_running hrun, fetchInstr_of_operandCount_zero hcount, hop]
  rfl

end Sys2Proof.Machine
end

section
/-! PROOFS. The opcode table as a whole (spec/30_encoding.md R82 to R84): each of the 256 byte values has a slot or is
unpopulated, never both, and so the decoder is total on opcode bytes. -/

namespace Sys2Proof

/-! ## Populated and unpopulated bytes -/

/-- A set of bytes as a 256-bit number: bit n stands for the byte n. Comparing two such sets is then one computation on
numbers, where a search of the table for each byte is 256. -/
def byteMask : List Byte → Nat
  | [] => 0
  | b :: bs => 2 ^ b.toNat ||| byteMask bs

theorem byteMask_append (bs cs : List Byte) : byteMask (bs ++ cs) = byteMask bs ||| byteMask cs := by
  induction bs with
  | nil => simp [byteMask]
  | cons b bs ih => simp only [List.cons_append, byteMask, ih, Nat.lor_assoc]

theorem testBit_byteMask (bs : List Byte) (op : Byte) : (byteMask bs).testBit op.toNat = bs.contains op := by
  induction bs with
  | nil => simp [byteMask]
  | cons b bs ih =>
    have hbit : (2 ^ b.toNat).testBit op.toNat = (op == b) := by
      rw [Nat.testBit_two_pow, beq_eq_decide, decide_eq_decide, eq_comm, BitVec.toNat_inj]
    simp only [byteMask, Nat.testBit_or, hbit, ih, List.contains_cons]

/-- Each of the 256 bytes is in exactly one of the two lists. -/
theorem byteMask_opcodes_xor_unpopulated :
    byteMask (opcodeTable.map (·.opcode)) ^^^ byteMask unpopulated = 2 ^ 256 - 1 := by
  simp only [opcodeTable, unpopulated, List.map_append, byteMask_append]
  decide

/-- A byte has no slot when R83 lists it, and only then. -/
theorem isNone_lookupOpcode (op : Byte) : (lookupOpcode op).isNone = unpopulated.contains op := by
  have hsearch : (lookupOpcode op).isNone = !(opcodeTable.map (·.opcode)).contains op := by
    rw [lookupOpcode, Bool.eq_iff_iff]
    simp
  have hone : ((opcodeTable.map (·.opcode)).contains op ^^ unpopulated.contains op) = true := by
    have hbit := congrArg (Nat.testBit · op.toNat) byteMask_opcodes_xor_unpopulated
    simpa only [Nat.testBit_xor, testBit_byteMask, Nat.testBit_two_pow_sub_one, op.isLt, decide_true] using hbit
  rw [hsearch, Bool.not_eq_eq_eq_not, Bool.eq_not]
  exact Bool.xor_iff_ne.1 hone

theorem lookupOpcode_eq_none_iff {op : Byte} : lookupOpcode op = none ↔ op ∈ unpopulated := by
  rw [← Option.isNone_iff_eq_none, isNone_lookupOpcode, List.contains_iff_mem]

/-! ## One slot -/

theorem operandCount_of_lookup {op : Byte} {r : OpcodeRow} (h : lookupOpcode op = some r) :
    operandCount op = r.mode.operandBytes := by
  simp [operandCount, h]

theorem decodeOp_of_lookup {op : Byte} {r : OpcodeRow} (h : lookupOpcode op = some r) (b1 b2 : Byte) :
    decodeOp op b1 b2 = r.build b1 b2 := by
  simp [decodeOp, h]

/-- ILLEGAL has length 1 (R83, R84). -/
theorem operandCount_of_mem_unpopulated {op : Byte} (h : op ∈ unpopulated) : operandCount op = 0 := by
  simp [operandCount, lookupOpcode_eq_none_iff.2 h]

theorem decodeOp_of_mem_unpopulated {op : Byte} (h : op ∈ unpopulated) (b1 b2 : Byte) : decodeOp op b1 b2 = .illegal op :=
  decodeOp_unpopulated (lookupOpcode_eq_none_iff.2 h) b1 b2

/-! ## The decoder on an opcode byte and what follows it -/

theorem decode_of_mem_unpopulated {op : Byte} (h : op ∈ unpopulated) (rest : List Byte) :
    decode (op :: rest) = .ok (.illegal op, rest) := by
  have hcount : ([] : List Byte).length = operandCount op := (operandCount_of_mem_unpopulated h).symm
  have hdecode := decode_append op hcount rest
  rwa [decodeOp_of_mem_unpopulated h] at hdecode

/-- A list long enough for the form decodes, and the decoder takes no more bytes than the form has. -/
theorem decode_of_operandCount_le {op : Byte} {rest : List Byte} (h : operandCount op ≤ rest.length) :
    ∃ i, decode (op :: rest) = .ok (i, rest.drop (operandCount op)) := by
  simp [decode, Nat.not_lt.2 h]

theorem decode_truncated {op : Byte} {rest : List Byte} (h : rest.length < operandCount op) :
    decode (op :: rest) = .error (.truncated op) := by
  simp [decode, h]

/-- Settles O16: which bytes have a slot is `isNone_lookupOpcode`, and the decoder asks no more than whether the operand bytes
are there. -/
theorem everyOpcodeByteDecodes : Obligations.EveryOpcodeByteDecodes := by
  refine ⟨isNone_lookupOpcode, ?_, ?_, ?_, rfl, rfl, rfl⟩
  · exact fun op b1 b2 h => decode_of_mem_unpopulated h [b1, b2]
  · exact fun op b1 b2 => decode_of_operandCount_le (operandCount_le op)
  · exact fun op rest h => decode_truncated h

/-- Settles O17: each word is a constant, which the decoder evaluates. -/
theorem specWordsDecode : Obligations.SpecWordsDecode :=
  ⟨rfl, rfl, rfl, rfl, rfl, rfl, rfl, rfl, rfl, rfl⟩

end Sys2Proof
end

section
/-! PROOFS. The round trip of decoder and encoder (spec/30_encoding.md R80 to R84): the decoder's table by opcode byte and the
encoder's table by mnemonic compared through `Mode.operandOfBytes`, the operand that a mode makes of its bytes. -/

namespace Sys2Proof

/-! ## An operand and its bytes (R80, R81) -/

/-- The operand a mode makes of the bytes after the opcode byte. Implied has none, like Accumulator; Relative has one raw byte,
like Immediate. -/
def Mode.operandOfBytes (b1 b2 : Byte) : Mode → Operand
  | .imp | .acc => .acc
  | .imm | .rel => .imm b1
  | .zp => .zp b1
  | .zpx => .zpx b1
  | .zpy => .zpy b1
  | .abs => .abs (joinBytes b2 b1)
  | .absx => .absx (joinBytes b2 b1)
  | .absy => .absy (joinBytes b2 b1)
  | .ind => .ind (joinBytes b2 b1)
  | .izx => .izx b1
  | .izy => .izy b1

/-- The operand's bytes are the ones it was made of. -/
theorem bytes_operandOfBytes (m : Mode) (b1 b2 : Byte) :
    (m.operandOfBytes b1 b2).bytes = [b1, b2].take m.operandBytes := by
  cases m with
  | imp | acc | imm | zp | zpx | zpy | izx | izy | rel => rfl
  | abs | absx | absy | ind => simp [Mode.operandOfBytes, Operand.bytes, Mode.operandBytes]

/-- An operand is made again of its own bytes. -/
theorem operandOfBytes_bytes (o : Operand) : o.mode.operandOfBytes (o.bytes.getD 0 0) (o.bytes.getD 1 0) = o := by
  cases o with
  | acc | imm | zp | zpx | zpy | izx | izy => rfl
  | abs | absx | absy | ind => simp [Mode.operandOfBytes, Operand.bytes, Operand.mode]

theorem length_bytes (o : Operand) : o.bytes.length = o.mode.operandBytes := by
  cases o <;> rfl

/-! ## From an instruction to its bytes and back -/

/-- The instruction has bytes, and whatever follows them they decode to it. -/
def RoundTrips (i : Instr) : Prop :=
  ∃ bs, encode i = some bs ∧ ∀ rest, decode (bs ++ rest) = .ok (i, rest)

/-- What the slot of an opcode byte makes of two operand bytes, with its mode. -/
def slotMeaning (op b1 b2 : Byte) : Option (Mode × Instr) :=
  (lookupOpcode op).map (fun r => (r.mode, r.build b1 b2))

theorem slotMeaning_eq_some {op b1 b2 : Byte} {m : Mode} {i : Instr} (h : slotMeaning op b1 b2 = some (m, i)) :
    operandCount op = m.operandBytes ∧ decodeOp op b1 b2 = i := by
  obtain ⟨r, hr, hmeaning⟩ := Option.map_eq_some_iff.1 h
  rw [Prod.mk.injEq] at hmeaning
  obtain ⟨rfl, rfl⟩ := hmeaning
  exact ⟨operandCount_of_lookup hr, decodeOp_of_lookup hr b1 b2⟩

/-- An instruction round-trips when the slot its encoding names stands for it. -/
theorem roundTrips_of_slot {i : Instr} {op : Byte} {operands : List Byte} (m : Mode) (henc : encode i = some (op :: operands))
    (hlen : operands.length = m.operandBytes)
    (hslot : slotMeaning op (operands.getD 0 0) (operands.getD 1 0) = some (m, i)) : RoundTrips i := by
  obtain ⟨hcount, hdecode⟩ := slotMeaning_eq_some hslot
  refine ⟨op :: operands, henc, fun rest => ?_⟩
  rw [List.cons_append, decode_append op (hlen.trans hcount.symm), hdecode]

/-- A line of the table by mnemonic agrees with the opcode matrix: the slot of each of its opcode bytes has the mode it stands
under, and is the mnemonic with that mode's operand. -/
def LineAgrees (c : Operand → Instr) (line : List (Mode × Byte)) : Prop :=
  ∀ b1 b2, line.map (fun p => slotMeaning p.2 b1 b2) = line.map (fun p => some (p.1, c (p.1.operandOfBytes b1 b2)))

/-- A mnemonic whose line agrees with the matrix round-trips in each of its forms. -/
theorem roundTrips_of_line {c : Operand → Instr} {line : List (Mode × Byte)} {o : Operand} (hline : LineAgrees c line)
    (henc : encode (c o) = encodeForm o line) (hsome : (encode (c o)).isSome) : RoundTrips (c o) := by
  cases hop : line.lookup o.mode with
  | none => simp [henc, encodeForm, hop] at hsome
  | some op =>
    have hmem : (o.mode, op) ∈ line := by
      obtain ⟨l₁, l₂, hsplit, -⟩ := List.lookup_eq_some_iff.1 hop
      simp [hsplit]
    have hslot := List.map_inj_left.1 (hline (o.bytes.getD 0 0) (o.bytes.getD 1 0)) _ hmem
    rw [operandOfBytes_bytes] at hslot
    exact roundTrips_of_slot o.mode (by simp [henc, encodeForm, hop]) (length_bytes o) hslot

/-- JSR: its target is the word of its two bytes. -/
theorem roundTrips_jsr (target : Addr) : RoundTrips (.jsr target) := by
  have hslot : slotMeaning 0x20 (loByte target) (hiByte target) =
      some (.abs, .jsr (joinBytes (hiByte target) (loByte target))) := rfl
  rw [joinBytes_hiByte_loByte] at hslot
  exact roundTrips_of_slot .abs rfl rfl hslot

theorem roundTrips_illegal {op : Byte} (h : op ∈ unpopulated) : RoundTrips (.illegal op) :=
  ⟨[op], by simp [encode, h], fun rest => decode_of_mem_unpopulated h rest⟩

/-- `Laws.EncodesWellFormed` instruction by instruction. -/
theorem Laws.EncodesWellFormed.statement : ∀ i, Statement i
  | .lda o => lda o | .ldx o => ldx o | .ldy o => ldy o | .sta o => sta o | .stx o => stx o
  | .sty o => sty o | .adc o => adc o | .sbc o => sbc o | .inc o => inc o | .dec o => dec o
  | .and o => and o | .ora o => ora o | .eor o => eor o | .bit o => bit o | .asl o => asl o
  | .lsr o => lsr o | .rol o => rol o | .ror o => ror o | .cmp o => cmp o | .cpx o => cpx o
  | .cpy o => cpy o | .jmp o => jmp o | .jsr target => jsr target | .bcc d => bcc d | .bcs d => bcs d
  | .beq d => beq d | .bne d => bne d | .bmi d => bmi d | .bpl d => bpl d | .bvc d => bvc d
  | .bvs d => bvs d | .illegal op => illegal op | .tax => tax | .tay => tay | .txa => txa
  | .tya => tya | .tsx => tsx | .txs => txs | .inx => inx | .iny => iny | .dex => dex | .dey => dey
  | .pha => pha | .pla => pla | .php => php | .plp => plp | .rts => rts | .brk => brk | .rti => rti
  | .nop => nop | .clc => clc | .sec => sec | .cli => cli | .sei => sei | .cld => cld | .sed => sed
  | .clv => clv

/-- The encoder has bytes for exactly the well-formed instructions. -/
theorem isSome_encode (i : Instr) : (encode i).isSome = i.wf :=
  Laws.EncodesWellFormed.statement i

/-- By the shape of the encoding: a line of forms, an opcode byte alone, an opcode byte with a displacement. -/
theorem roundTrips_of_wf {i : Instr} (hwf : i.wf = true) : RoundTrips i := by
  have hsome : (encode i).isSome := (isSome_encode i).trans hwf
  cases i with
  | lda | ldx | ldy | sta | stx | sty | adc | sbc | inc | dec | and | ora | eor | bit | asl | lsr | rol | ror | cmp | cpx
  | cpy | jmp => exact roundTrips_of_line (fun _ _ => rfl) rfl hsome
  | tax | tay | txa | tya | tsx | txs | inx | iny | dex | dey | pha | pla | php | plp | rts | brk | rti | nop | clc | sec
  | cli | sei | cld | sed | clv => exact roundTrips_of_slot .imp rfl rfl rfl
  | bcc | bcs | beq | bne | bmi | bpl | bvc | bvs => exact roundTrips_of_slot .rel rfl rfl rfl
  | jsr target => exact roundTrips_jsr target
  | illegal op => exact roundTrips_illegal (List.contains_iff_mem.1 hwf)

/-- Settles O14: `roundTrips_of_wf`. -/
theorem decodeOfEncodeIsTheInstruction : Obligations.DecodeOfEncodeIsTheInstruction :=
  fun _ hwf => roundTrips_of_wf hwf

/-! ## From bytes to an instruction and back -/

/-- The encoding of what a slot stands for is the slot's opcode byte and the operand's bytes: the 151 slots one by one. -/
theorem encode_build {r : OpcodeRow} (hr : r ∈ opcodeTable) (b1 b2 : Byte) :
    encode (r.build b1 b2) = some (r.opcode :: (r.mode.operandOfBytes b1 b2).bytes) := by
  have htable : opcodeTable.map (fun r => encode (r.build b1 b2)) =
      opcodeTable.map (fun r => some (r.opcode :: (r.mode.operandOfBytes b1 b2).bytes)) := rfl
  exact List.map_inj_left.1 htable r hr

/-- The encoding of what an opcode byte and its operand bytes stand for is these bytes again. -/
theorem encode_decodeOp (op b1 b2 : Byte) :
    encode (decodeOp op b1 b2) = some (op :: [b1, b2].take (operandCount op)) := by
  cases hslot : lookupOpcode op with
  | none =>
    have hop := lookupOpcode_eq_none_iff.1 hslot
    simp [decodeOp_of_mem_unpopulated hop, operandCount_of_mem_unpopulated hop, encode, hop]
  | some r =>
    obtain ⟨hop, hr⟩ := lookupOpcode_opcode hslot
    rw [decodeOp_of_lookup hslot, operandCount_of_lookup hslot, encode_build hr, hop, bytes_operandOfBytes]

/-- At most two operand bytes are all in the pair that the decoder takes from them. -/
theorem take_pair_getD {bs : List Byte} (h : bs.length ≤ 2) : [bs.getD 0 0, bs.getD 1 0].take bs.length = bs := by
  match bs, h with
  | [], _ | [_], _ | [_, _], _ => rfl

/-- Settles O15: an accepted list is an opcode byte, its operand bytes and the rest (`decode_ok`), and `encode_decodeOp` gives
the first two back; what has an encoding is well formed. -/
theorem encodeOfDecodeIsTheBytes : Obligations.EncodeOfDecodeIsTheBytes := by
  intro bs rest i h
  obtain ⟨op, operands, rfl, hlen, rfl⟩ := decode_ok h
  have henc := encode_decodeOp op (operands.getD 0 0) (operands.getD 1 0)
  rw [← hlen, take_pair_getD (hlen ▸ operandCount_le op)] at henc
  refine ⟨?_, op :: operands, henc, rfl⟩
  rw [← isSome_encode, henc]
  rfl

end Sys2Proof
end

section
/-! PROOFS. The step on the instruction that PC stands at (spec/30_encoding.md R86, R84, R80): the fetch is as many byte fetches
as the form has bytes, the instruction is the one the decoder reads from these bytes, and ILLEGAL alone does not complete. -/

namespace Sys2Proof.Machine

open Sys2Proof.Claims

/-! ## The step by the length of the form -/

/-- Byte k of the instruction stream from PC on, as the bus gives it after the bytes before it were fetched. -/
def streamByte (s : State) (k : Nat) : Byte := readByte (afterFetch^[k] s) (afterFetch^[k] s).pc

theorem fetchInstr_of_operandCount_one {s : State} (h : operandCount (streamByte s 0) = 1) :
    fetchInstr s = ⟨streamByte s 0, streamByte s 1, 0, afterFetch^[2] s⟩ := by
  have hop : operandCount (readByte s s.pc) = 1 := h
  simp only [fetchInstr, fetch8_eq, hop]
  rfl

theorem fetchInstr_of_operandCount_two {s : State} (h : operandCount (streamByte s 0) = 2) :
    fetchInstr s = ⟨streamByte s 0, streamByte s 1, streamByte s 2, afterFetch^[3] s⟩ := by
  have hop : operandCount (readByte s s.pc) = 2 := h
  simp only [fetchInstr, fetch8_eq, hop]
  rfl

theorem step_of_operandCount_zero {s : State} (hrun : s.run = .running) (h : operandCount (streamByte s 0) = 0) :
    step s = retire (baseCycles (streamByte s 0)) (exec (decodeOp (streamByte s 0) 0 0) (afterFetch^[1] s)) := by
  rw [step_of_running hrun, fetchInstr_of_operandCount_zero (s := s) h]
  rfl

theorem step_of_operandCount_one {s : State} (hrun : s.run = .running) (h : operandCount (streamByte s 0) = 1) :
    step s = retire (baseCycles (streamByte s 0))
      (exec (decodeOp (streamByte s 0) (streamByte s 1) 0) (afterFetch^[2] s)) := by
  rw [step_of_running hrun, fetchInstr_of_operandCount_one h]

theorem step_of_operandCount_two {s : State} (hrun : s.run = .running) (h : operandCount (streamByte s 0) = 2) :
    step s = retire (baseCycles (streamByte s 0))
      (exec (decodeOp (streamByte s 0) (streamByte s 1) (streamByte s 2)) (afterFetch^[3] s)) := by
  rw [step_of_running hrun, fetchInstr_of_operandCount_two h]

/-- What the decoder reads from three bytes, which hold every form: it leaves the bytes that the form does not have. -/
theorem decode_three_bytes {op b1 b2 : Byte} {i : Instr} {rest : List Byte} (h : decode [op, b1, b2] = .ok (i, rest)) :
    (operandCount op = 0 ∧ i = decodeOp op 0 0 ∧ rest = [b1, b2]) ∨
    (operandCount op = 1 ∧ i = decodeOp op b1 0 ∧ rest = [b2]) ∨
    (operandCount op = 2 ∧ i = decodeOp op b1 b2 ∧ rest = []) := by
  have hle := operandCount_le op
  obtain hn | hn | hn : operandCount op = 0 ∨ operandCount op = 1 ∨ operandCount op = 2 := by omega
  all_goals
    simp only [decode, hn] at h
    cases h
  · exact .inl ⟨hn, rfl, rfl⟩
  · exact .inr (.inl ⟨hn, rfl, rfl⟩)
  · exact .inr (.inr ⟨hn, rfl, rfl⟩)

/-! ## Instruction bytes outside the I/O range (R51, R58) -/

/-- A fetch outside the I/O range moves PC alone. -/
theorem afterFetch_plain {s : State} (h : inIoRange s.pc = false) : afterFetch s = s.setPC (s.pc + 1#16) := by
  simp only [afterFetch, ioAfter_plain h]
  rfl

/-- So do k fetches in a row. -/
theorem afterFetch_iterate_plain {s : State} {k : Nat} (h : ∀ j, j < k → inIoRange (s.pc + BitVec.ofNat 16 j) = false) :
    afterFetch^[k] s = s.setPC (s.pc + BitVec.ofNat 16 k) := by
  induction k with
  | zero => simp
  | succ k ih =>
    have hk : inIoRange (s.setPC (s.pc + BitVec.ofNat 16 k)).pc = false := h k k.lt_succ_self
    rw [Function.iterate_succ_apply', ih fun j hj => h j (Nat.lt_succ_of_lt hj), afterFetch_plain hk, setPC_setPC,
      setPC_pc, BitVec.add_assoc, BitVec.ofNat_add]

/-- And byte k is the array's. -/
theorem streamByte_plain {s : State} {n k : Nat} (h : ∀ j, j < n → inIoRange (s.pc + BitVec.ofNat 16 j) = false)
    (hk : k < n) : streamByte s k = s.mem.read (s.pc + BitVec.ofNat 16 k).toNat := by
  rw [streamByte, afterFetch_iterate_plain fun j hj => h j (hj.trans hk)]
  simp [readByte_eq, h k hk]

/-- Settles O19: in each length of the form the step is what `step_of_operandCount_zero` and its siblings say; outside the I/O
range its bytes are the array's (`streamByte_plain`). -/
theorem stepRunsTheDecodedInstruction : Obligations.StepRunsTheDecodedInstruction := by
  constructor
  · intro s i rest hrun s1 s2 s3 h
    obtain ⟨hn, rfl, rfl⟩ | ⟨hn, rfl, rfl⟩ | ⟨hn, rfl, rfl⟩ := decode_three_bytes h
    · exact step_of_operandCount_zero hrun hn
    · exact step_of_operandCount_one hrun hn
    · exact step_of_operandCount_two hrun hn
  · intro s i rest hrun h hplain
    have hop : 0 < 3 - rest.length → streamByte s 0 = s.mem.read s.pc.toNat := by
      simpa using streamByte_plain hplain (k := 0)
    obtain ⟨hn, rfl, rfl⟩ | ⟨hn, rfl, rfl⟩ | ⟨hn, rfl, rfl⟩ := decode_three_bytes h
    all_goals
      have hstate := afterFetch_iterate_plain hplain
      specialize hop (by simp)
      rw [← hop] at hn ⊢
    · rw [step_of_operandCount_zero hrun hn]
      exact congrArg _ (congrArg _ hstate)
    · rw [← streamByte_plain hplain (k := 1) (by simp), step_of_operandCount_one hrun hn]
      exact congrArg _ (congrArg _ hstate)
    · rw [← streamByte_plain hplain (k := 1) (by simp), ← streamByte_plain hplain (k := 2) (by simp),
        step_of_operandCount_two hrun hn]
      exact congrArg _ (congrArg _ hstate)

/-! ## How a step ends (R86, R226) -/

/-- An opcode byte whose instruction is ILLEGAL is unpopulated and the one that ILLEGAL carries: they have the same
encoding. -/
theorem decodeOp_eq_illegal {op b1 b2 x : Byte} (h : decodeOp op b1 b2 = .illegal x) : op ∈ unpopulated ∧ x = op := by
  have henc := encode_decodeOp op b1 b2
  rw [h, encode] at henc
  split_ifs at henc with hx
  simp only [Option.some.injEq, List.cons.injEq] at henc
  obtain ⟨rfl, -⟩ := henc
  exact ⟨List.contains_iff_mem.1 hx, rfl⟩

/-- A step of a running machine completes, or it has fetched an unpopulated byte, which it reports with its address. -/
theorem step_ends {s : State} (hrun : s.run = .running) :
    (∃ t, step s = .next t) ∨
      (readByte s s.pc ∈ unpopulated ∧ step s = .fault (.illegalOpcode (readByte s s.pc) s.pc)) := by
  have hop : (fetchInstr s).op = readByte s s.pc := by rw [fetchInstr_op, busRead_eq]
  rw [step_of_running hrun]
  rcases exec_ends (decodeOp (fetchInstr s).op (fetchInstr s).b1 (fetchInstr s).b2) (fetchInstr s).state with
    ⟨t, ht⟩ | ⟨x, hx, -, hfault⟩
  · exact .inl ⟨_, congrArg (retire _) ht⟩
  · obtain ⟨hmem, rfl⟩ := decodeOp_eq_illegal hx
    rw [hop] at hmem
    rw [hfault, fetchInstr_of_operandCount_zero (operandCount_of_mem_unpopulated hmem)]
    refine .inr ⟨hmem, ?_⟩
    simp [retire, afterFetch]

/-- Settles O22: `step_ends`. -/
theorem stepEndsNormallyOrIllegal : Obligations.StepEndsNormallyOrIllegal := by
  intro s hrun
  rcases step_ends hrun with hnext | ⟨hmem, hfault⟩
  · exact ⟨fun _ => hnext, .inl hnext⟩
  · exact ⟨fun hpopulated => absurd hmem hpopulated, .inr hfault⟩

end Sys2Proof.Machine
end

section
/-! PROOFS. The addressing modes (spec/40_addressing_modes.md R100 to R113): each effective address as a number, the page bug of
Indirect with the side effects of its pointer reads, and the one read of an operand. -/

namespace Sys2Proof.Machine

open Sys2Proof.Claims

/-! ## Indexing and zero-page pointers (R101 to R107, R109, R110) -/

theorem zext16_eq_ofNat (d : Byte) : zext16 d = BitVec.ofNat 16 d.toNat :=
  (BitVec.ofNat_toNat 16 d).symm

/-- Zero-page indexing wraps modulo 256 (R103, R104, D13). -/
theorem zext16_add_eq_ofNat (z i : Byte) : zext16 (z + i) = BitVec.ofNat 16 ((z.toNat + i.toNat) % 256) :=
  zext16_eq_ofNat (z + i)

/-- Absolute indexing wraps modulo 65536 (R106, R107, D13). -/
theorem add_zext16_eq_ofNat (a : Addr) (i : Byte) : a + zext16 i = BitVec.ofNat 16 (a.toNat + i.toNat) := by
  rw [BitVec.ofNat_add, BitVec.ofNat_toNat, BitVec.setWidth_eq, zext16_eq_ofNat]

/-- Settles O11: zero-page and absolute indexing are `zext16_add_eq_ofNat` and `add_zext16_eq_ofNat`, and a zero-page pointer is
`readZpPointer_eq`, whose `joinBytes` is the little-endian value by definition. -/
theorem effectiveAddresses : Obligations.EffectiveAddresses := by
  intro s z v a next pointer
  have hpointer (p : Byte) : readZpPointer p s = (BitVec.ofNat 16 (pointer p.toNat), s) := readZpPointer_eq p s
  refine ⟨rfl, ?zp, ?zpx, ?zpy, rfl, ?absx, ?absy, ?izx, ?izy⟩
  case zp => rw [resolve, zext16_eq_ofNat]
  case zpx => rw [resolve, zext16_add_eq_ofNat]
  case zpy => rw [resolve, zext16_add_eq_ofNat]
  case absx => rw [resolve, add_zext16_eq_ofNat]
  case absy => rw [resolve, add_zext16_eq_ofNat]
  case izx => exact hpointer (z + s.x)
  case izy => simp only [resolve, hpointer, zext16_eq_ofNat, BitVec.ofNat_add]

/-! ## The pointer of Indirect (R108) -/

/-- Clearing an address's low byte subtracts it. -/
theorem and_pageMask_eq_ofNat (a : Addr) : a &&& 0xFF00#16 = BitVec.ofNat 16 (a.toNat - a.toNat % 256) := by
  have hshift : a &&& 0xFF00#16 = (a >>> 8) <<< 8 := (BitVec.shiftLeft_ushiftRight (x := a) (n := 8)).symm
  have hlt := a.isLt
  apply BitVec.eq_of_toNat_eq
  rw [hshift, BitVec.toNat_shiftLeft, BitVec.toNat_ushiftRight, BitVec.toNat_ofNat, Nat.shiftRight_eq_div_pow,
    Nat.shiftLeft_eq]
  omega

/-- The address of the pointer's high byte in numbers: the page bug when the low byte is 0xFF. -/
theorem pagePointerHigh_eq (p : Addr) :
    (if loByte p = 0xFF#8 then p &&& 0xFF00#16 else p + 1#16) =
      if p.toNat % 256 = 255 then BitVec.ofNat 16 (p.toNat - 255) else BitVec.ofNat 16 (p.toNat + 1) := by
  have hlo : loByte p = 0xFF#8 ↔ p.toNat % 256 = 255 := by rw [BitVec.toNat_eq, toNat_loByte]; rfl
  by_cases h : p.toNat % 256 = 255
  · rw [if_pos (hlo.2 h), if_pos h, and_pageMask_eq_ofNat, h]
  · rw [if_neg (mt hlo.1 h), if_neg h, BitVec.ofNat_add, BitVec.ofNat_toNat, BitVec.setWidth_eq]

/-- Of all accesses only one at the strobe changes what a read gives, and only that of the key byte. -/
theorem readByte_setIo_ioAfter {a b : Addr} (h : a = keyStrobeAddr → b ≠ keyDataAddr) (on : Bool) (s : State) :
    readByte (s.setIo (ioAfter on a s.io)) b = readByte s b := by
  by_cases hb : b = keyDataAddr
  · have ha : a.toNat ≠ 0xC010 := fun ha => h (BitVec.eq_of_toNat_eq ha) hb
    have hkey : keyByte (ioAfter on a s.io) = keyByte s.io := by simp [keyByte, ioAfter, ha]
    simp [readByte_eq, hkey]
  · simp [readByte_eq, hb]

/-- Settles O12: `pagePointerHigh_eq` gives the second address; after the strobe it is 0xC011, so that the first read leaves the
byte of the second one as it was (`readByte_setIo_ioAfter`). -/
theorem indirectModeHasThePageBug : Obligations.IndirectModeHasThePageBug := by
  intro p s second
  have hsecond : (if loByte p = 0xFF#8 then p &&& 0xFF00#16 else p + 1#16) = second := pagePointerHigh_eq p
  have hne : p = keyStrobeAddr → second ≠ keyDataAddr := by
    rintro rfl
    rw [← hsecond]
    decide
  simp only [resolve, readPagePointer, hsecond, busRead_eq, readByte_setIo_ioAfter hne]
  rfl

/-! ## The operand (R100, R113, R120, R169) -/

/-- Settles O13: the literal and A are no access; every other form but Indirect is one bus read at the effective address
(`readOperand_memory`), which `busRead_eq` describes. -/
theorem operandIsReadOnce : Obligations.OperandIsReadOnce := by
  intro o s hind
  cases o with
  | imm | acc => rfl
  | ind => exact absurd rfl hind
  | zp | zpx | zpy | abs | absx | absy | izx | izy =>
    rw [readOperand_memory s (by simp) (by simp [Operand.mode]) hind, busRead_eq]
    rfl

end Sys2Proof.Machine
end

section
/-! PROOFS. The "Encoding" and "Opcode" lines of the instruction rules (spec/30_encoding.md R82): an instruction has the forms
of a line when the encoder writes the line, because the encoder's forms are the well-formed ones and they round-trip. -/

namespace Sys2Proof

open Sys2Proof.Claims

/-- The modes the encoder has in a line are the well-formed ones (`isSome_encode`), and decoding an encoding gives the
instruction back (`roundTrips_of_wf`). -/
theorem forms_of_encode {c : Operand → Instr} {line : List (Mode × Byte)} (henc : ∀ o, encode (c o) = encodeForm o line) :
    Forms c line := by
  intro o
  have hwf : (c o).wf = (line.lookup o.mode).isSome := by
    rw [← isSome_encode, henc, encodeForm]
    cases line.lookup o.mode <;> rfl
  refine ⟨hwf, fun op hop rest => ?_⟩
  obtain ⟨bs, hbs, hdecode⟩ := roundTrips_of_wf (hwf.trans (congrArg Option.isSome hop))
  obtain rfl : op :: o.bytes = bs := by simpa [henc, encodeForm, hop] using hbs
  exact hdecode rest

theorem oneByte_of_encode {i : Instr} {op : Byte} (henc : encode i = some [op]) : OneByte i op := by
  have hwf : i.wf = true := by rw [← isSome_encode, henc]; rfl
  obtain ⟨bs, hbs, hdecode⟩ := roundTrips_of_wf hwf
  obtain rfl : [op] = bs := Option.some.inj (henc.symm.trans hbs)
  exact ⟨hwf, hdecode⟩

/-- An operand whose mode is in a mnemonic's list of modes has none of the modes that are not. -/
theorem mode_ne_of_contains {modes : List Mode} {o : Operand} {m : Mode} (h : modes.contains o.mode = true)
    (hm : m ∉ modes) : o.mode ≠ m :=
  fun hom => hm (hom ▸ List.contains_iff_mem.1 h)

end Sys2Proof
end

section
/-! PROOFS. Loads, stores and transfers (spec/41_load_store_transfer.md R120 to R132), and which instructions may change memory,
over all instructions (R120, R144, R145, R169, R190, R201, R210). -/

namespace Sys2Proof.Machine

open Sys2Proof.Claims

/-! ## Loads (R121 to R123) -/

/-- Settles O24: no load has an Indirect form, so its operand is read as `operandIsReadOnce` says; Z and N are
`setZN_eq_zn`. -/
theorem loadsWriteTheRegisterAndZN : Obligations.LoadsWriteTheRegisterAndZN := by
  refine ⟨forms_of_encode fun _ => rfl, forms_of_encode fun _ => rfl, forms_of_encode fun _ => rfl,
    fun o s => ⟨fun hwf => ?lda, fun hwf => ?ldx, fun hwf => ?ldy⟩⟩
  all_goals have hread := operandIsReadOnce o s (mode_ne_of_contains hwf (by decide))
  case lda => rw [exec_lda, hread, setZN_eq_zn]; rfl
  case ldx => rw [exec_ldx, hread, setZN_eq_zn]; rfl
  case ldy => rw [exec_ldy, hread, setZN_eq_zn]; rfl

/-! ## Stores (R124 to R126) -/

/-- A store in any form but Indirect is one bus write at its effective address (R120). -/
theorem writeOperand_eq_busWrite {o : Operand} (v : Byte) (s : State) (hind : o.mode ≠ .ind) :
    writeOperand o v s = busWrite (resolve o s).1 v s := by
  simp only [writeOperand, resolve_state s hind]

/-- An instruction that stores a register and has no Indirect form stores it as the bus decodes the address
(`busWriteDecodesTheAddress`). -/
theorem storesRegister_of_exec {c : Operand → Instr} {src : State → Byte}
    (hexec : ∀ o s, exec (c o) s = .next (writeOperand o (src s) s))
    (hind : ∀ o, (c o).wf = true → o.mode ≠ .ind) : StoresRegister c src := by
  intro o s hwf
  obtain ⟨m, hwrite, hstored, -⟩ := busWriteDecodesTheAddress (resolve o s).1 (src s) s
  rw [hexec, writeOperand_eq_busWrite _ s (hind o hwf), hwrite]
  exact ⟨_, rfl, rfl, hstored⟩

/-- Settles O25: `forms_of_encode` and `storesRegister_of_exec`, register by register. -/
theorem storesWriteOneByte : Obligations.StoresWriteOneByte :=
  ⟨forms_of_encode fun _ => rfl, forms_of_encode fun _ => rfl, forms_of_encode fun _ => rfl,
    storesRegister_of_exec exec_sta fun _ hwf => mode_ne_of_contains hwf (by decide),
    storesRegister_of_exec exec_stx fun _ hwf => mode_ne_of_contains hwf (by decide),
    storesRegister_of_exec exec_sty fun _ hwf => mode_ne_of_contains hwf (by decide)⟩

/-! ## Transfers (R127 to R132) -/

/-- Settles O26: the equation of each transfer, with Z and N by `setZN_eq_zn`. -/
theorem transfersCopyAndSetZN : Obligations.TransfersCopyAndSetZN := by
  refine ⟨oneByte_of_encode rfl, oneByte_of_encode rfl, oneByte_of_encode rfl, oneByte_of_encode rfl,
    oneByte_of_encode rfl, fun s => ?_⟩
  simp only [exec_tax, exec_tay, exec_txa, exec_tya, exec_tsx, setZN_eq_zn]
  exact ⟨rfl, rfl, rfl, rfl, rfl⟩

/-- Settles O27: TXS writes the flag latch back as it was, or with Z and N as the parameter says. -/
theorem txsWritesTheStackPointer : Obligations.TxsWritesTheStackPointer := by
  refine ⟨oneByte_of_encode rfl, fun s => ⟨fun hcfg => ?_, fun hcfg => ?_⟩⟩
  · rw [exec_txs, hcfg]; rfl
  · rw [exec_txs, hcfg, setZN_eq_zn]; rfl

/-! ## Which instructions may change memory -/

/-- The resolver's pointer reads leave memory (R100). -/
theorem resolve_mem (o : Operand) (s : State) : (resolve o s).2.mem = s.mem := by
  obtain ⟨io, h, -⟩ := resolve_frame o s
  simp [h]

/-- So does reading an operand. -/
theorem readOperand_mem (o : Operand) (s : State) : (readOperand o s).2.mem = s.mem := by
  obtain ⟨io, h, -⟩ := readOperand_frame o s
  simp [h]

/-- So does a read-modify-write on A (R169). -/
theorem modifyOperand_acc_mem (f : Byte → Flags → Byte × Flags) (s : State) : (modifyOperand f .acc s).mem = s.mem :=
  rfl

/-- So does a branch (R230). -/
theorem branchIf_mem (cond : Bool) (d : Byte) (s : State) : (branchIf cond d s).mem = s.mem := by
  obtain ⟨pc, h⟩ := branchIf_frame cond d s
  simp [h]

theorem ne_acc_of_contains {modes : List Mode} {o : Operand} (h : modes.contains o.mode = true)
    (hacc : Mode.acc ∉ modes) : o ≠ .acc :=
  fun ho => mode_ne_of_contains h hacc (congrArg Operand.mode ho)

/-- Settles O58: the memory an instruction leaves, group by group. A group that may change it is one the statement names; a
shift or rotate is in it on a memory form alone, and the stores, INC and DEC have no Accumulator form. -/
theorem onlyStoringInstructionsWriteMemory : Obligations.OnlyStoringInstructionsWriteMemory := by
  intro i s t hwf
  revert t
  cases i with
  | lda | ldx | ldy | adc | sbc | and | ora | eor | bit | cmp | cpx | cpy => simp [readOperand_mem]
  | sta | stx | sty | inc | dec =>
    have hacc := ne_acc_of_contains hwf (by decide)
    simp [hacc]
  | asl o | lsr o | rol o | ror o => by_cases ho : o = .acc <;> simp [modifyOperand_acc_mem, ho]
  | tax | tay | txa | tya | tsx | txs | inx | iny | dex | dey | nop | clc | sec | cli | sei | cld | sed | clv => simp
  | pha | php | brk | jsr => simp
  | pla | plp => simp [pull_eq]
  | jmp => simp [resolve_mem]
  | rts => simp [pullWord_eq]
  | rti => simp [returnFromBreak_eq]
  | bcc | bcs | beq | bne | bmi | bpl | bvc | bvs => simp [branchIf_mem]
  | illegal =>
    intro t h
    simp [exec_illegal_next h]

end Sys2Proof.Machine
end

section
/-! PROOFS. Arithmetic (spec/42_arithmetic.md R140 to R149). ADC and SBC: the state either leaves in terms of the ALU's output, then
the output in numbers, in binary and on valid BCD. INC and DEC: the read-modify-write in memory, and the index registers. -/

namespace Sys2Proof.Machine

open Sys2Proof.Claims

/-! ## The state ADC and SBC leave (R140) -/

theorem setAlu_eq_zn (out : AluOut) (p : Flags) : p.setAlu out = zn out.r { p with c := out.c, v := out.v } :=
  setZN_eq_zn out.r _

/-- The state after an ALU operation on the operand `o` with the output `out`: A, the flags the output sets, and the side effect of
the operand's read. -/
def afterAlu (o : Operand) (s : State) (out : AluOut) : State :=
  { s with a := out.r, p := zn out.r { s.p with c := out.c, v := out.v }, io := operandIo o s }

/-- ADC has no Indirect form, so its operand is read as `operandIsReadOnce` says. -/
theorem exec_adc_eq {o : Operand} (s : State) (hwf : (Instr.adc o).wf = true) :
    exec (.adc o) s = .next (afterAlu o s (aluAdc s.cfg.decimal s.p.d s.p.c s.a (operandByte o s))) := by
  rw [exec_adc, operandIsReadOnce o s (mode_ne_of_contains hwf (by decide))]
  simp only [setAlu_eq_zn]
  rfl

theorem exec_sbc_eq {o : Operand} (s : State) (hwf : (Instr.sbc o).wf = true) :
    exec (.sbc o) s = .next (afterAlu o s (aluSbc s.cfg.decimal s.p.d s.p.c s.a (operandByte o s))) := by
  rw [exec_sbc, operandIsReadOnce o s (mode_ne_of_contains hwf (by decide))]
  simp only [setAlu_eq_zn]
  rfl

/-- Settles O28: `exec_adc_eq` and `exec_sbc_eq`, whatever the ALU's output. -/
theorem addAndSubtractFrame : Obligations.AddAndSubtractFrame :=
  fun _ s => ⟨fun hwf => ⟨_, _, _, exec_adc_eq s hwf⟩, fun hwf => ⟨_, _, _, exec_sbc_eq s hwf⟩⟩

/-! ## What U3 leaves open -/

/-- With D = 0, or where the pseudocode's value is taken, nothing is. -/
theorem aluAdc_eq_adcRule {policy : DecimalPolicy} {d : Bool} (h : d = false ∨ policy = .algorithm) (c : Bool) (a m : Byte) :
    aluAdc policy d c a m = adcRule d c a m := by
  rcases h with rfl | rfl
  · cases policy <;> rfl
  · rfl

theorem aluSbc_eq_sbcRule {policy : DecimalPolicy} {d : Bool} (h : d = false ∨ policy = .algorithm) (c : Bool) (a m : Byte) :
    aluSbc policy d c a m = sbcRule d c a m := by
  rcases h with rfl | rfl
  · cases policy <;> rfl
  · rfl

theorem validBcd_of_isBcd {v : Byte} (h : IsBcd v) : validBcd v = true := by
  obtain ⟨hhi, hlo⟩ := h
  simp [validBcd, loNibble, hiNibble, hhi, hlo]

/-- On valid BCD V alone is open. -/
theorem freeDecimal_of_isBcd {a m : Byte} (ha : IsBcd a) (hm : IsBcd m) (op : DecimalOp) (c : Bool) (out : AluOut) :
    freeDecimal op c a m out = { out with v := Config.freeDecimalOverflow op a m c } := by
  simp [freeDecimal, validBcd_of_isBcd ha, validBcd_of_isBcd hm]

theorem aluAdc_of_isBcd {a m : Byte} (ha : IsBcd a) (hm : IsBcd m) (policy : DecimalPolicy) (c : Bool) :
    ∃ v, aluAdc policy true c a m = ⟨(adcRule true c a m).r, (adcRule true c a m).c, v⟩ := by
  cases policy with
  | algorithm => exact ⟨_, rfl⟩
  | cautious => exact ⟨_, freeDecimal_of_isBcd ha hm .adc c _⟩

theorem aluSbc_of_isBcd {a m : Byte} (ha : IsBcd a) (hm : IsBcd m) (policy : DecimalPolicy) (c : Bool) :
    ∃ v, aluSbc policy true c a m = ⟨(sbcRule true c a m).r, (sbcRule true c a m).c, v⟩ := by
  cases policy with
  | algorithm => exact ⟨_, rfl⟩
  | cautious => exact ⟨_, freeDecimal_of_isBcd ha hm .sbc c _⟩

/-! ## The pseudocode of ADC (R141) -/

theorem signMismatch_eq_decide (a m r : Byte) :
    signMismatch a m r = decide (((a ^^^ r) &&& (m ^^^ r) &&& 0x80#8) ≠ 0#8) := by
  rw [signMismatch, bne, beq_eq_decide, decide_not]

/-- ADC's integer t after the correction of the low digit (R141). -/
def adcLow (d c : Bool) (a m : Byte) : Nat :=
  let t := a.toNat + m.toNat + c.toNat
  if d = true ∧ 9 < a.toNat % 16 + m.toNat % 16 + c.toNat then t + 6 else t

theorem adcSum_eq (d c : Bool) (a m : Byte) :
    adcSum d c a m = if d = true ∧ 0x99 < adcLow d c a m then adcLow d c a m + 0x60 else adcLow d c a m := by
  have hlow : (if d && decide (loNibble a + loNibble m + c.toNat > 9) then a.toNat + m.toNat + c.toNat + 6
      else a.toNat + m.toNat + c.toNat) = adcLow d c a m := by
    simp [adcLow, loNibble]
  simp only [adcSum, hlow]
  simp

/-- Settles O29: `adcSum_eq` is t after both corrections, whose bit 8 is taken out by a division. -/
theorem adcFollowsThePseudocode : Obligations.AdcFollowsThePseudocode := by
  refine ⟨forms_of_encode fun _ => rfl, fun o s hwf hopen => ?_⟩
  rw [exec_adc_eq s hwf, aluAdc_eq_adcRule hopen]
  simp only [adcRule, adcSum_eq, signMismatch_eq_decide, Nat.testBit_eq_decide_div_mod_eq]
  rfl

/-! ## The pseudocode of SBC (R142) -/

/-- Bit 8 of a sum of two bytes and Carry, or of any number below 512, is its carry out. -/
theorem testBit_eight {t : Nat} (h : t < 512) : t.testBit 8 = decide (256 ≤ t) := by
  rw [Nat.testBit_eq_decide_div_mod_eq, decide_eq_decide]
  omega

theorem add_add_carry_lt (a m : Byte) (c : Bool) : a.toNat + m.toNat + c.toNat < 512 := by
  have ha := a.isLt
  have hm := m.isLt
  have hc := c.toNat_le
  omega

/-- The integer t of SBC, with NOT M in numbers. -/
def sbcSum (c : Bool) (a m : Byte) : Nat := a.toNat + (255 - m.toNat) + c.toNat

/-- SBC's result after the correction of the low digit, before the reduction modulo 256: subtracting 6 is adding 250. -/
def sbcLow (d c : Bool) (a m : Byte) : Nat :=
  if d = true ∧ a.toNat % 16 + c.toNat < m.toNat % 16 + 1 then sbcSum c a m + 250 else sbcSum c a m

/-- SBC's result after both corrections: subtracting 0x60 is adding 160. -/
def sbcResult (d c : Bool) (a m : Byte) : Nat :=
  if d = true ∧ sbcSum c a m < 256 then sbcLow d c a m + 160 else sbcLow d c a m

theorem testBit_sbcSum (c : Bool) (a m : Byte) : (sbcSum c a m).testBit 8 = decide (256 ≤ sbcSum c a m) := by
  have h := add_add_carry_lt a (~~~m) c
  rw [BitVec.toNat_not] at h
  exact testBit_eight h

/-- The low nibble borrows when A's, with Carry, does not reach one more than M's. -/
theorem loNibble_borrows_iff (c : Bool) (a m : Byte) :
    loNibble a < loNibble m + (1 - c.toNat) ↔ a.toNat % 16 + c.toNat < m.toNat % 16 + 1 := by
  have hc := c.toNat_le
  simp only [loNibble]
  omega

theorem ofNat_sub_6 (t : Nat) : BitVec.ofNat 8 t - 6#8 = BitVec.ofNat 8 (t + 250) := by
  rw [BitVec.ofNat_sub_ofNat, Nat.add_comm]

theorem ofNat_sub_0x60 (t : Nat) : BitVec.ofNat 8 t - 0x60#8 = BitVec.ofNat 8 (t + 160) := by
  rw [BitVec.ofNat_sub_ofNat, Nat.add_comm]

/-- The model's rule, whose corrections are on bytes, in numbers. -/
theorem sbcRule_eq (d c : Bool) (a m : Byte) :
    sbcRule d c a m =
      ⟨BitVec.ofNat 8 (sbcResult d c a m), decide (256 ≤ sbcSum c a m),
        signMismatch a (~~~m) (BitVec.ofNat 8 (sbcResult d c a m))⟩ := by
  have hnot : m ^^^ 0xFF#8 = ~~~m := BitVec.xor_allOnes
  have hsum : a.toNat + (~~~m).toNat + c.toNat = sbcSum c a m := by rw [BitVec.toNat_not]; rfl
  have hlow : (if d && decide (loNibble a < loNibble m + (1 - c.toNat)) then BitVec.ofNat 8 (sbcSum c a m) - 6#8
      else BitVec.ofNat 8 (sbcSum c a m)) = BitVec.ofNat 8 (sbcLow d c a m) := by
    simp [sbcLow, loNibble_borrows_iff, ofNat_sub_6, apply_ite (BitVec.ofNat 8)]
  have hresult : (if d && !(sbcSum c a m).testBit 8 then BitVec.ofNat 8 (sbcLow d c a m) - 0x60#8
      else BitVec.ofNat 8 (sbcLow d c a m)) = BitVec.ofNat 8 (sbcResult d c a m) := by
    simp [sbcResult, testBit_sbcSum, ofNat_sub_0x60, apply_ite (BitVec.ofNat 8)]
  simp only [sbcRule, hnot, hsum, hlow, hresult]
  rw [testBit_sbcSum]

/-- Settles O30: `sbcRule_eq`. -/
theorem sbcFollowsThePseudocode : Obligations.SbcFollowsThePseudocode := by
  refine ⟨forms_of_encode fun _ => rfl, fun o s hwf hopen => ?_⟩
  rw [exec_sbc_eq s hwf, aluSbc_eq_sbcRule hopen, sbcRule_eq, signMismatch_eq_decide]
  rfl

/-! ## Binary: D = 0 (R141 (a), R142 (a)) -/

theorem and_signBit_ne_zero_iff (v : Byte) : v &&& 0x80#8 ≠ 0#8 ↔ v.msb = true := by
  revert v
  decide

/-- The sign test of R140: A and M have one sign and the result has the other. -/
theorem signMismatch_iff (a m r : Byte) : signMismatch a m r = true ↔ a.msb = m.msb ∧ r.msb ≠ a.msb := by
  rw [signMismatch_eq_decide, decide_eq_true_eq, and_signBit_ne_zero_iff, BitVec.msb_and, BitVec.msb_xor, BitVec.msb_xor]
  have hsigns : ∀ x y z : Bool, ((x ^^ z) && (y ^^ z)) = true ↔ x = y ∧ z ≠ x := by decide
  exact hsigns a.msb m.msb r.msb

theorem toInt_byte (v : Byte) : v.toInt = if 128 ≤ v.toNat then (v.toNat : Int) - 256 else v.toNat := by
  simp [BitVec.toInt_eq_msb_cond, BitVec.msb_eq_decide]

/-- The sign test says signed overflow of A + M + C. -/
theorem signMismatch_sum_iff (c : Bool) (a m : Byte) :
    signMismatch a m (BitVec.ofNat 8 (a.toNat + m.toNat + c.toNat)) = true ↔ SignedOverflow (a.toInt + m.toInt + c.toNat) := by
  have ha := a.isLt
  have hm := m.isLt
  have hc := c.toNat_le
  rw [signMismatch_iff, SignedOverflow, toInt_byte, toInt_byte]
  simp only [BitVec.msb_eq_decide, BitVec.toNat_ofNat, decide_eq_decide, ne_eq, Nat.reducePow, Nat.reduceSub]
  split <;> split <;> omega

theorem adcRule_false (c : Bool) (a m : Byte) :
    let sum := a.toNat + m.toNat + c.toNat
    adcRule false c a m = ⟨BitVec.ofNat 8 sum, decide (255 < sum), signMismatch a m (BitVec.ofNat 8 sum)⟩ := by
  intro sum
  have hcarry : sum.testBit 8 = decide (255 < sum) := testBit_eight (add_add_carry_lt a m c)
  exact congrArg (AluOut.mk _ · _) hcarry

/-- Settles O31: with D = 0 nothing is open, and `adcRule_false` is the sum, with V by `signMismatch_sum_iff`. -/
theorem binaryAdcIsAddition : Obligations.BinaryAdcIsAddition := by
  intro o s hwf hd m sum
  refine ⟨signMismatch s.a m (BitVec.ofNat 8 sum), ?_, signMismatch_sum_iff s.p.c s.a m⟩
  rw [exec_adc_eq s hwf, aluAdc_eq_adcRule (.inl hd), hd, adcRule_false]
  rfl

/-- With D = 0, subtracting M is adding NOT M. -/
theorem sbcRule_false (c : Bool) (a m : Byte) : sbcRule false c a m = adcRule false c a (~~~m) := by
  have hnot : m ^^^ 0xFF#8 = ~~~m := BitVec.xor_allOnes
  simp [sbcRule, adcRule, adcSum, hnot]

theorem toInt_not_byte (m : Byte) : (~~~m).toInt = -1 - m.toInt := by
  have hm := m.isLt
  rw [toInt_byte, toInt_byte, BitVec.toNat_not]
  split <;> split <;> omega

/-- NOT M is 255 - M, so the sum with it is the difference plus 256. -/
theorem sbcRule_false_eq (c : Bool) (a m : Byte) :
    let diff : Int := (a.toNat : Int) - m.toNat - (1 - c.toNat)
    sbcRule false c a m =
      ⟨BitVec.ofInt 8 diff, decide (0 ≤ diff),
        signMismatch a (~~~m) (BitVec.ofNat 8 (a.toNat + (~~~m).toNat + c.toNat))⟩ := by
  intro diff
  have hm := m.isLt
  have hsum : ((a.toNat + (~~~m).toNat + c.toNat : Nat) : Int) = diff + 256 := by
    rw [BitVec.toNat_not]
    omega
  have hbyte : BitVec.ofNat 8 (a.toNat + (~~~m).toNat + c.toNat) = BitVec.ofInt 8 diff := by
    rw [← BitVec.ofInt_natCast, hsum, BitVec.ofInt_add]
    exact BitVec.add_zero _
  have hcarry : decide (255 < a.toNat + (~~~m).toNat + c.toNat) = decide (0 ≤ diff) := by
    rw [decide_eq_decide]
    omega
  rw [sbcRule_false, adcRule_false, hcarry, hbyte]

/-- NOT M is -1 - M in signed numbers, so the sign test of the sum with it says signed overflow of the difference. -/
theorem signMismatch_diff_iff (c : Bool) (a m : Byte) :
    signMismatch a (~~~m) (BitVec.ofNat 8 (a.toNat + (~~~m).toNat + c.toNat)) = true ↔
      SignedOverflow (a.toInt - m.toInt - (1 - c.toNat)) := by
  have hsigned : a.toInt - m.toInt - (1 - c.toNat) = a.toInt + (~~~m).toInt + c.toNat := by
    rw [toInt_not_byte]
    omega
  rw [hsigned]
  exact signMismatch_sum_iff c a (~~~m)

/-- Settles O32: with D = 0 nothing is open, and SBC adds NOT M (`sbcRule_false_eq`, `signMismatch_diff_iff`). -/
theorem binarySbcIsSubtraction : Obligations.BinarySbcIsSubtraction := by
  intro o s hwf hd m diff
  refine ⟨_, ?_, signMismatch_diff_iff s.p.c s.a m⟩
  rw [exec_sbc_eq s hwf, aluSbc_eq_sbcRule (.inl hd), hd, sbcRule_false_eq]
  rfl

/-! ## Decimal: D = 1 on valid BCD (R141 (b), R142 (c)) -/

/-- The sum in one column of a decimal addition is a carry and a digit. -/
theorem carry_digit {x : Nat} (h : x ≤ 19) : ∃ k d, (k = 0 ∨ k = 1) ∧ d ≤ 9 ∧ x = 10 * k + d :=
  ⟨x / 10, x % 10, by omega, by omega, by omega⟩

theorem bcdByte_digits {d1 d0 : Nat} (h0 : d0 ≤ 9) : bcdByte (10 * d1 + d0) = BitVec.ofNat 8 (16 * d1 + d0) := by
  rw [bcdByte]
  congr 1
  omega

/-- Decimal addition column by column: the decimal sum is a carry and two digits, and the corrections, which make a column carry
at 10 and not at 16, leave the same two digits in t, with the carry in bit 8. -/
theorem adcSum_of_isBcd {a m : Byte} (ha : IsBcd a) (hm : IsBcd m) (c : Bool) :
    ∃ k d1 d0 : Nat, (k = 0 ∨ k = 1) ∧ d1 ≤ 9 ∧ d0 ≤ 9 ∧
      bcdValue a + bcdValue m + c.toNat = 100 * k + (10 * d1 + d0) ∧ adcSum true c a m = 256 * k + (16 * d1 + d0) := by
  have hc := c.toNat_le
  obtain ⟨ha1, ha0⟩ := ha
  obtain ⟨hm1, hm0⟩ := hm
  obtain ⟨k0, d0, hk0, h0, hcolumn0⟩ := carry_digit (x := a.toNat % 16 + m.toNat % 16 + c.toNat) (by omega)
  obtain ⟨k, d1, hk, h1, hcolumn1⟩ := carry_digit (x := a.toNat / 16 + m.toNat / 16 + k0) (by omega)
  have hlow : adcLow true c a m = 160 * k + (16 * d1 + d0) := by
    simp only [adcLow, true_and]
    split <;> omega
  refine ⟨k, d1, d0, hk, h1, h0, ?_, ?_⟩
  · simp only [bcdValue]
    omega
  · simp only [adcSum_eq, hlow, true_and]
    split <;> omega

theorem adcRule_of_isBcd {a m : Byte} (ha : IsBcd a) (hm : IsBcd m) (c : Bool) :
    let sum := bcdValue a + bcdValue m + c.toNat
    (adcRule true c a m).r = bcdByte (sum % 100) ∧ (adcRule true c a m).c = decide (100 ≤ sum) := by
  intro sum
  obtain ⟨k, d1, d0, hk, h1, h0, hvalue, ht⟩ := adcSum_of_isBcd ha hm c
  have hmod : sum % 100 = 10 * d1 + d0 := by omega
  simp only [adcRule, ht]
  constructor
  · rw [hmod, bcdByte_digits h0]
    apply BitVec.eq_of_toNat_eq
    simp
  · rw [testBit_eight (by omega), decide_eq_decide]
    omega

/-- Settles O33: on valid BCD V alone is open (`aluAdc_of_isBcd`), and A and C are `adcRule_of_isBcd`. -/
theorem decimalAdcIsDecimalAddition : Obligations.DecimalAdcIsDecimalAddition := by
  intro o s hwf hd ha hm sum
  obtain ⟨v, hout⟩ := aluAdc_of_isBcd ha hm s.cfg.decimal s.p.c
  obtain ⟨hr, hc⟩ := adcRule_of_isBcd ha hm s.p.c
  rw [exec_adc_eq s hwf, hd, hout, hr, hc]
  exact ⟨v, rfl⟩

/-- Decimal subtraction is the addition of the nines' complement, column by column: the decimal difference plus 100 is a carry
and two digits, the corrected byte has the same two digits, and t carries when the difference did. -/
theorem sbcResult_of_isBcd {a m : Byte} (ha : IsBcd a) (hm : IsBcd m) (c : Bool) :
    ∃ k d1 d0 : Nat, (k = 0 ∨ k = 1) ∧ d1 ≤ 9 ∧ d0 ≤ 9 ∧
      (bcdValue a : Int) - bcdValue m - (1 - c.toNat) + 100 = 100 * k + (10 * d1 + d0) ∧
      sbcResult true c a m % 256 = 16 * d1 + d0 ∧ sbcSum c a m / 256 = k := by
  have hc := c.toNat_le
  obtain ⟨ha1, ha0⟩ := ha
  obtain ⟨hm1, hm0⟩ := hm
  obtain ⟨k0, d0, hk0, h0, hcolumn0⟩ := carry_digit (x := a.toNat % 16 + (9 - m.toNat % 16) + c.toNat) (by omega)
  obtain ⟨k, d1, hk, h1, hcolumn1⟩ := carry_digit (x := a.toNat / 16 + (9 - m.toNat / 16) + k0) (by omega)
  have hlt := m.isLt
  refine ⟨k, d1, d0, hk, h1, h0, ?_, ?_, ?_⟩
  · simp only [bcdValue]
    omega
  · simp only [sbcResult, sbcLow, sbcSum, true_and]
    split <;> split <;> omega
  · rw [sbcSum]
    omega

theorem sbcRule_of_isBcd {a m : Byte} (ha : IsBcd a) (hm : IsBcd m) (c : Bool) :
    let diff : Int := (bcdValue a : Int) - bcdValue m - (1 - c.toNat)
    (sbcRule true c a m).r = bcdByte (diff % 100).toNat ∧ (sbcRule true c a m).c = decide (0 ≤ diff) := by
  intro diff
  obtain ⟨k, d1, d0, hk, h1, h0, hvalue, hresult, ht⟩ := sbcResult_of_isBcd ha hm c
  have hmod : (diff % 100).toNat = 10 * d1 + d0 := by omega
  simp only [sbcRule_eq]
  constructor
  · rw [hmod, bcdByte_digits h0, ← hresult]
    apply BitVec.eq_of_toNat_eq
    simp
  · rw [decide_eq_decide]
    omega

/-- Settles O34: on valid BCD V alone is open (`aluSbc_of_isBcd`), and A and C are `sbcRule_of_isBcd`. -/
theorem decimalSbcIsDecimalSubtraction : Obligations.DecimalSbcIsDecimalSubtraction := by
  intro o s hwf hd ha hm diff
  obtain ⟨v, hout⟩ := aluSbc_of_isBcd ha hm s.cfg.decimal s.p.c
  obtain ⟨hr, hc⟩ := sbcRule_of_isBcd ha hm s.p.c
  rw [exec_sbc_eq s hwf, hd, hout, hr, hc]
  exact ⟨v, rfl⟩

/-! ## INC and DEC (R143 to R149) -/

theorem add_one_eq_ofNat (v : Byte) : v + 1#8 = BitVec.ofNat 8 (v.toNat + 1) := by
  rw [BitVec.ofNat_add, BitVec.ofNat_toNat, BitVec.setWidth_eq]

theorem sub_one_eq_ofNat (v : Byte) : v - 1#8 = BitVec.ofNat 8 (v.toNat + 255) := by
  rw [BitVec.ofNat_add, BitVec.ofNat_toNat, BitVec.setWidth_eq]
  exact BitVec.sub_eq_add_neg v 1#8

/-- A read-modify-write in any memory form but Indirect is the bus read `busRead_eq` describes and the bus write
`busWriteDecodesTheAddress` describes, both at the effective address. -/
theorem modifiesMemory_of_exec {c : Operand → Instr} {f : Byte → Flags → Byte × Flags} {out : Byte → Bool → Byte × Bool}
    (hexec : ∀ o s, exec (c o) s = .next (modifyOperand f o s))
    (hind : ∀ o, (c o).wf = true → o.mode ≠ .ind)
    (hf : ∀ m p, f m p = ((out m p.c).1, zn (out m p.c).1 { p with c := (out m p.c).2 })) : ModifiesMemory c out := by
  intro o s hwf hacc
  obtain ⟨m, hwrite, hstored, -⟩ := busWriteDecodesTheAddress (resolve o s).1 (out (readByte s (resolve o s).1) s.p.c).1
    (busRead (resolve o s).1 s).2
  rw [hexec, modifyOperand_memory f s hacc, resolve_state s (hind o hwf)]
  simp only [hf, busRead_eq, setIo_p] at hwrite hstored ⊢
  rw [hwrite]
  exact ⟨_, rfl, rfl, hstored⟩

theorem incByte_eq (m : Byte) (p : Flags) :
    incByte m p = (BitVec.ofNat 8 (m.toNat + 1), zn (BitVec.ofNat 8 (m.toNat + 1)) p) := by
  rw [← add_one_eq_ofNat, ← setZN_eq_zn]
  rfl

theorem decByte_eq (m : Byte) (p : Flags) :
    decByte m p = (BitVec.ofNat 8 (m.toNat + 255), zn (BitVec.ofNat 8 (m.toNat + 255)) p) := by
  rw [← sub_one_eq_ofNat, ← setZN_eq_zn]
  rfl

/-- Settles O35: `forms_of_encode` and `modifiesMemory_of_exec`; neither has an Indirect form, and Carry is handed through. -/
theorem incrementAndDecrementMemory : Obligations.IncrementAndDecrementMemory :=
  ⟨forms_of_encode fun _ => rfl, forms_of_encode fun _ => rfl,
    modifiesMemory_of_exec exec_inc (fun _ hwf => mode_ne_of_contains hwf (by decide)) incByte_eq,
    modifiesMemory_of_exec exec_dec (fun _ hwf => mode_ne_of_contains hwf (by decide)) decByte_eq⟩

/-- Settles O36: the equation of each instruction, with the byte in numbers and Z and N by `setZN_eq_zn`. -/
theorem incrementAndDecrementIndex : Obligations.IncrementAndDecrementIndex := by
  refine ⟨oneByte_of_encode rfl, oneByte_of_encode rfl, oneByte_of_encode rfl, oneByte_of_encode rfl, fun s => ?_⟩
  simp only [exec_inx, exec_iny, exec_dex, exec_dey, setZN_eq_zn, add_one_eq_ofNat, sub_one_eq_ofNat]
  exact ⟨rfl, rfl, rfl, rfl⟩

end Sys2Proof.Machine
end

section
/-! PROOFS. Logic, bit test, shifts and rotates (spec/43_logic_shift.md R160 to R169): the operations that read one operand, then
the byte and the Carry of each shift and rotate in numbers, and with them its Accumulator form and its memory forms. -/

namespace Sys2Proof.Machine

open Sys2Proof.Claims

/-! ## Logic and bit test (R161 to R164) -/

/-- Settles O37: none of the three has an Indirect form, so its operand is read as `operandIsReadOnce` says; Z and N are
`setZN_eq_zn`. -/
theorem logicWritesAAndZN : Obligations.LogicWritesAAndZN := by
  refine ⟨forms_of_encode fun _ => rfl, forms_of_encode fun _ => rfl, forms_of_encode fun _ => rfl,
    fun o s => ⟨fun hwf => ?and, fun hwf => ?ora, fun hwf => ?eor⟩⟩
  all_goals have hread := operandIsReadOnce o s (mode_ne_of_contains hwf (by decide))
  case and => rw [exec_and, hread]; simp only [setZN_eq_zn]; rfl
  case ora => rw [exec_ora, hread]; simp only [setZN_eq_zn]; rfl
  case eor => rw [exec_eor, hread]; simp only [setZN_eq_zn]; rfl

/-- Settles O38: BIT has no Indirect form, so its operand is read as `operandIsReadOnce` says; N and V are its bits by
definition. -/
theorem bitTestWritesZNV : Obligations.BitTestWritesZNV := by
  refine ⟨forms_of_encode fun _ => rfl, fun o s hwf => ?_⟩
  rw [exec_bit, operandIsReadOnce o s (mode_ne_of_contains hwf (by decide))]
  simp only [Flags.bitTest, beq_eq_decide]
  rfl

/-! ## The byte and the Carry of a shift (R165, R166) -/

theorem shiftLeft_one_eq_ofNat (m : Byte) : m <<< 1 = BitVec.ofNat 8 (2 * m.toNat) := by
  bv_omega

theorem ushiftRight_one_eq_ofNat (m : Byte) : m >>> 1 = BitVec.ofNat 8 (m.toNat / 2) := by
  bv_omega

/-- Bit 0 of a byte is its parity. -/
theorem getLsbD_zero_eq_decide (m : Byte) : m.getLsbD 0 = decide (m.toNat % 2 = 1) :=
  Nat.testBit_zero m.toNat

theorem aslByte_eq (m : Byte) (p : Flags) :
    aslByte m p = ((aslOut m p.c).1, zn (aslOut m p.c).1 { p with c := (aslOut m p.c).2 }) := by
  simp only [aslByte, aslOut, shiftLeft_one_eq_ofNat, getLsbD_seven_eq_decide, setZN_eq_zn]

theorem lsrByte_eq (m : Byte) (p : Flags) :
    lsrByte m p = ((lsrOut m p.c).1, zn (lsrOut m p.c).1 { p with c := (lsrOut m p.c).2 }) := by
  simp only [lsrByte, lsrOut, ushiftRight_one_eq_ofNat, getLsbD_zero_eq_decide, setZN_eq_zn]

/-! ## The byte and the Carry of a rotate (R167, R168) -/

/-- The Carry goes to bit 0, which the left shift has cleared, so that joining it adds it. -/
theorem shiftLeft_one_or_carry (m : Byte) (c : Bool) :
    m <<< 1 ||| maskIf c 0x01 = BitVec.ofNat 8 (2 * m.toNat + c.toNat) := by
  have hadd : 2 * m.toNat + c.toNat = 2 * m.toNat ||| c.toNat :=
    Nat.two_pow_add_eq_or_of_lt (i := 1) c.toNat_lt m.toNat
  have hmask : maskIf c 0x01 = BitVec.ofNat 8 c.toNat := by cases c <;> rfl
  rw [shiftLeft_one_eq_ofNat, hadd, BitVec.ofNat_or, hmask]

/-- The Carry goes to bit 7, which the right shift has cleared, so that joining it adds it. -/
theorem ushiftRight_one_or_carry (m : Byte) (c : Bool) :
    m >>> 1 ||| maskIf c 0x80 = BitVec.ofNat 8 (m.toNat / 2 + 128 * c.toNat) := by
  have hhalf : m.toNat / 2 < 2 ^ 7 := Nat.div_lt_of_lt_mul m.isLt
  have hadd : 128 * c.toNat + m.toNat / 2 = 128 * c.toNat ||| m.toNat / 2 :=
    Nat.two_pow_add_eq_or_of_lt hhalf c.toNat
  have hmask : maskIf c 0x80 = BitVec.ofNat 8 (128 * c.toNat) := by cases c <;> rfl
  rw [ushiftRight_one_eq_ofNat, Nat.add_comm, hadd, BitVec.ofNat_or, hmask, BitVec.or_comm]

theorem rolByte_eq (m : Byte) (p : Flags) :
    rolByte m p = ((rolOut m p.c).1, zn (rolOut m p.c).1 { p with c := (rolOut m p.c).2 }) := by
  simp only [rolByte, rolOut, shiftLeft_one_or_carry, getLsbD_seven_eq_decide, setZN_eq_zn]

theorem rorByte_eq (m : Byte) (p : Flags) :
    rorByte m p = ((rorOut m p.c).1, zn (rorOut m p.c).1 { p with c := (rorOut m p.c).2 }) := by
  simp only [rorByte, rorOut, ushiftRight_one_or_carry, getLsbD_zero_eq_decide, setZN_eq_zn]

/-! ## On A and on memory (R169) -/

/-- The Accumulator form is the byte function on A and the flags, and no bus access. -/
theorem modifyOperand_acc (f : Byte → Flags → Byte × Flags) (s : State) :
    modifyOperand f .acc s = (s.setA (f s.a s.p).1).setP (f s.a s.p).2 := rfl

theorem shiftsA_of_exec {c : Operand → Instr} {f : Byte → Flags → Byte × Flags} {out : Byte → Bool → Byte × Bool}
    (hexec : ∀ o s, exec (c o) s = .next (modifyOperand f o s))
    (hf : ∀ m p, f m p = ((out m p.c).1, zn (out m p.c).1 { p with c := (out m p.c).2 })) : ShiftsA c out := by
  intro s
  rw [hexec, modifyOperand_acc, hf]
  rfl

/-- Settles O39: `forms_of_encode`, `shiftsA_of_exec` and `modifiesMemory_of_exec`, with the byte functions in numbers; neither
has an Indirect form. -/
theorem shiftsOnAAndOnMemory : Obligations.ShiftsOnAAndOnMemory :=
  ⟨forms_of_encode fun _ => rfl, forms_of_encode fun _ => rfl,
    shiftsA_of_exec exec_asl aslByte_eq, shiftsA_of_exec exec_lsr lsrByte_eq,
    modifiesMemory_of_exec exec_asl (fun _ hwf => mode_ne_of_contains hwf (by decide)) aslByte_eq,
    modifiesMemory_of_exec exec_lsr (fun _ hwf => mode_ne_of_contains hwf (by decide)) lsrByte_eq⟩

/-- Settles O40: as O39; `rolByte_eq` and `rorByte_eq` take the Carry from the flags before the operation. -/
theorem rotatesThroughCarry : Obligations.RotatesThroughCarry :=
  ⟨forms_of_encode fun _ => rfl, forms_of_encode fun _ => rfl,
    shiftsA_of_exec exec_rol rolByte_eq, shiftsA_of_exec exec_ror rorByte_eq,
    modifiesMemory_of_exec exec_rol (fun _ hwf => mode_ne_of_contains hwf (by decide)) rolByte_eq,
    modifiesMemory_of_exec exec_ror (fun _ hwf => mode_ne_of_contains hwf (by decide)) rorByte_eq⟩

end Sys2Proof.Machine
end

section
/-! PROOFS. Compares (spec/44_compare.md R180 to R183): the flags a compare leaves, in numbers, and with them the three
instructions, which differ in the register alone. -/

namespace Sys2Proof.Machine

open Sys2Proof.Claims

/-- The binary subtraction R - M of R180, modulo 256 and with no borrow-in. -/
theorem sub_eq_ofNat (r m : Byte) : r - m = BitVec.ofNat 8 (r.toNat + 256 - m.toNat) := by
  bv_omega

/-- A compare writes Z and N from the difference and C from the unsigned comparison, and reads no flag (R180). -/
theorem compare_eq_zn (r m : Byte) (p : Flags) :
    p.compare r m = zn (BitVec.ofNat 8 (r.toNat + 256 - m.toNat)) { p with c := decide (m.toNat ≤ r.toNat) } := by
  rw [← sub_eq_ofNat, ← setZN_eq_zn]
  rfl

/-- An instruction that only compares the register `reg` with its operand, in any form but Indirect: the operand's read leaves
the register as it was. -/
theorem comparesRegister_of_exec {c : Operand → Instr} {reg : State → Byte}
    (hexec : ∀ o s, exec (c o) s =
      .next ((readOperand o s).2.setP ((readOperand o s).2.p.compare (reg (readOperand o s).2) (readOperand o s).1)))
    (hind : ∀ o, (c o).wf = true → o.mode ≠ .ind) (hreg : ∀ s io, reg { s with io := io } = reg s) :
    ComparesRegister c reg := by
  intro o s hwf
  rw [hexec, operandIsReadOnce o s (hind o hwf), compare_eq_zn, hreg]
  rfl

/-- Settles O41: `forms_of_encode` and `comparesRegister_of_exec`; none of the three has an Indirect form. -/
theorem comparesWriteCZN : Obligations.ComparesWriteCZN :=
  ⟨forms_of_encode fun _ => rfl, forms_of_encode fun _ => rfl, forms_of_encode fun _ => rfl,
    comparesRegister_of_exec exec_cmp (fun _ hwf => mode_ne_of_contains hwf (by decide)) fun _ _ => rfl,
    comparesRegister_of_exec exec_cpx (fun _ hwf => mode_ne_of_contains hwf (by decide)) fun _ _ => rfl,
    comparesRegister_of_exec exec_cpy (fun _ hwf => mode_ne_of_contains hwf (by decide)) fun _ _ => rfl⟩

end Sys2Proof.Machine
end

section
/-! PROOFS. The stack instructions (spec/45_stack.md R190 to R194): what a push leaves of the state and of memory, the two pushes
and the two pulls, and each pull after its push. -/

namespace Sys2Proof.Machine

open Sys2Proof.Claims

/-! ## PHA and PHP (R191, R193) -/

/-- A push changes SP and memory only (R190). -/
theorem push_eq_with_mem (v : Byte) (s : State) : push v s = { s with sp := s.sp - 1#8, mem := (push v s).mem } := by
  rw [push_eq_stackCell]
  rfl

theorem read_push_other {b : Nat} {s : State} (v : Byte) (hb : b ≠ stackCell s.sp) :
    (push v s).mem.read b = s.mem.read b := by
  rw [push_eq_stackCell]
  exact Memory.read_write_other hb

theorem read_push_same {s : State} (v : Byte) (hm : s.mem.wf) : (push v s).mem.read (stackCell s.sp) = v := by
  rw [push_eq_stackCell]
  exact Memory.read_write_same hm

/-- Settles O42: both instructions are one push, of A or of the status byte with the Break latch in bit 4, whose value
`toNat_statusByte` gives. -/
theorem pushInstructions : Obligations.PushInstructions := by
  refine ⟨oneByte_of_encode rfl, oneByte_of_encode rfl, fun s =>
    ⟨⟨_, exec_pha s, push_eq_with_mem _ s, fun _ => read_push_other _, read_push_same _⟩,
      ⟨_, exec_php s, push_eq_with_mem _ s, fun _ => read_push_other _, fun hm => ?_⟩⟩⟩
  rw [read_push_same _ hm, toNat_statusByte]

/-! ## PLA and PLP (R192, R194) -/

/-- Settles O43: `pull_eq_stackCell`, with Z and N by `setZN_eq_zn`; SetStatus reads a byte's bits by definition. -/
theorem pullInstructions : Obligations.PullInstructions := by
  refine ⟨oneByte_of_encode rfl, oneByte_of_encode rfl, fun s => ?_⟩
  simp only [exec_pla, exec_plp, pull_eq_stackCell, setZN_eq_zn]
  exact ⟨rfl, rfl⟩

/-! ## A pull right after its push -/

/-- Settles O52: by `pull_push` the pull gives A back, and its state is the old one with the byte stored. -/
theorem phaThenPlaRestoresA : Obligations.PhaThenPlaRestoresA := by
  refine fun s hm => ⟨_, _, exec_pha s, exec_pla _, ?_⟩
  rw [pull_push hm, setZN_eq_zn]
  rfl

/-- Settles O53: by `pull_push` the pull gives the status byte back, and the flags read from it are the old ones, as PHP put
the Break latch's own value in bit 4 (`flagsOfStatus_statusByte`). -/
theorem phpThenPlpRestoresTheFlags : Obligations.PhpThenPlpRestoresTheFlags := by
  refine fun s hm => ⟨_, _, exec_php s, exec_plp _, ?_⟩
  rw [pull_push hm, flagsOfStatus_statusByte]
  rfl

end Sys2Proof.Machine
end

section
/-! PROOFS. Jumps and subroutines (spec/46_jump_subroutine.md R200 to R203): JMP in its two forms, what pushing and pulling a
16-bit value leave of the state and of memory, JSR, RTS, and RTS after JSR. -/

namespace Sys2Proof.Machine

open Sys2Proof.Claims

/-! ## JMP (R200) -/

/-- Settles O44: JMP goes where its operand resolves to; Absolute resolves to the operand itself, and Indirect as
`indirectModeHasThePageBug` says. -/
theorem jmpWritesPc : Obligations.JmpWritesPc := by
  refine ⟨forms_of_encode fun _ => rfl, fun a s => ⟨exec_jmp (.abs a) s, ?_⟩⟩
  rw [exec_jmp, indirectModeHasThePageBug]
  rfl

/-! ## A 16-bit value on the stack (R55, R201, R202) -/

/-- Pushing a 16-bit value changes SP and memory only. -/
theorem pushWord_eq_with_mem (w : Addr) (s : State) :
    pushWord w s = { s with sp := s.sp - 2#8, mem := (pushWord w s).mem } := by
  have hsp : s.sp - 1#8 - 1#8 = s.sp - 2#8 := by bv_omega
  rw [pushWord_eq, hsp]
  rfl

theorem push_sp (v : Byte) (s : State) : (push v s).sp = s.sp - 1#8 := by
  rw [push_eq_with_mem]

theorem read_pushWord_other {b : Nat} {s : State} (w : Addr) (hhi : b ≠ stackCell s.sp)
    (hlo : b ≠ stackCell (s.sp - 1#8)) : (pushWord w s).mem.read b = s.mem.read b := by
  rw [← push_sp (hiByte w)] at hlo
  exact (read_push_other _ hlo).trans (read_push_other _ hhi)

/-- The high byte lies where SP stood: the push of the low byte goes to another cell, below it or, for SP = 0, at the other end
of page 1. -/
theorem read_pushWord_high {s : State} (w : Addr) (hm : s.mem.wf) :
    (pushWord w s).mem.read (stackCell s.sp) = hiByte w := by
  have hne : stackCell s.sp ≠ stackCell (push (hiByte w) s).sp := by
    rw [push_sp]
    unfold stackCell
    bv_omega
  exact (read_push_other _ hne).trans (read_push_same _ hm)

theorem read_pushWord_low {s : State} (w : Addr) (hm : s.mem.wf) :
    (pushWord w s).mem.read (stackCell (s.sp - 1#8)) = loByte w := by
  rw [← push_sp (hiByte w)]
  exact read_push_same _ ((push_stepFrame _ s).wf hm)

/-- `pullWord_eq` with the stack addresses in numbers. -/
theorem pullWord_eq_stackCell (s : State) :
    pullWord s =
      (joinBytes (s.mem.read (stackCell (s.sp + 2#8))) (s.mem.read (stackCell (s.sp + 1#8))), s.setSP (s.sp + 2#8)) := by
  have hsp : s.sp + 1#8 + 1#8 = s.sp + 2#8 := BitVec.add_assoc s.sp 1#8 1#8
  rw [pullWord_eq, toNat_stackAddr_eq_stackCell, toNat_stackAddr_eq_stackCell, hsp]

/-- A pull neither reads PC nor changes it. -/
theorem pullWord_setPC (s : State) (pc : Addr) :
    pullWord (s.setPC pc) = ((pullWord s).1, (pullWord s).2.setPC pc) := by
  simp only [pullWord_eq_stackCell]
  rfl

/-- The pulls read the two cells the pushes wrote, the low byte's first, and raise SP to where it was. -/
theorem pullWord_pushWord {w : Addr} {s : State} (hm : s.mem.wf) :
    pullWord (pushWord w s) = (w, s.setMem (pushWord w s).mem) := by
  have hsp : (pushWord w s).sp = s.sp - 2#8 := by rw [pushWord_eq_with_mem]
  have hhi : s.sp - 2#8 + 2#8 = s.sp := BitVec.sub_add_cancel s.sp 2#8
  have hlo : s.sp - 2#8 + 1#8 = s.sp - 1#8 := by bv_omega
  rw [pullWord_eq_stackCell, hsp, hhi, hlo, read_pushWord_high w hm, read_pushWord_low w hm, joinBytes_hiByte_loByte]
  congr 1
  rw [pushWord_eq_with_mem]
  rfl

/-! ## JSR and RTS (R201 to R203) -/

/-- Settles O45: JSR is the push of PC - 1 and a jump; the two bytes pushed are the quotient and the remainder by 256. -/
theorem jsrPushesTheReturnAddress : Obligations.JsrPushesTheReturnAddress := by
  refine ⟨fun target rest => ?encoding, fun target s => ⟨_, exec_jsr target s, ?state, ?others, fun hm => ⟨?high, ?low⟩⟩⟩
  case encoding =>
    obtain ⟨bs, hbs, hdecode⟩ := roundTrips_jsr target
    obtain rfl : [0x20#8, loByte target, hiByte target] = bs := Option.some.inj hbs
    exact hdecode rest
  case state => rw [pushWord_eq_with_mem]; rfl
  case others => exact fun _ => read_pushWord_other _
  case high => rw [setPC_mem, read_pushWord_high _ hm, toNat_hiByte]
  case low => rw [setPC_mem, read_pushWord_low _ hm, toNat_loByte]

/-- Settles O46: `pullWord_eq_stackCell`; `joinBytes` is the little-endian value by definition, and adding one wraps modulo
65536 on either side. -/
theorem rtsResumesPastThePulledAddress : Obligations.RtsResumesPastThePulledAddress := by
  refine ⟨oneByte_of_encode rfl, fun s => ?_⟩
  rw [exec_rts, pullWord_eq_stackCell, BitVec.ofNat_add]
  rfl

/-- Settles O54: by `pullWord_pushWord` RTS pulls the PC - 1 that JSR pushed, and the one it adds gives PC back. -/
theorem jsrThenRtsReturns : Obligations.JsrThenRtsReturns := by
  refine fun target s hm => ⟨_, _, exec_jsr target s, exec_rts _, ?_⟩
  have hpc : s.pc - 1#16 + 1#16 = s.pc := BitVec.sub_add_cancel s.pc 1#16
  rw [pullWord_setPC, pullWord_pushWord hm, hpc]
  rfl

end Sys2Proof.Machine
end

section
/-! PROOFS. The whole step on an unpopulated slot (spec/47_system_flags.md R226), and the cycles a step counts
(spec/70_reset_and_hazards.md R284, R285): the base counts of the opcode table by group and mode, and CYC left alone by the
fetch and by every instruction. -/

namespace Sys2Proof

open Sys2Proof.Claims

/-! ## From an encoding back to its instruction (R80 to R84) -/

/-- Whatever follows an instruction's bytes, they decode to it. -/
theorem decode_of_encode {i : Instr} {bs : List Byte} (henc : encode i = some bs) (rest : List Byte) :
    decode (bs ++ rest) = .ok (i, rest) := by
  have hwf : i.wf = true := by rw [← isSome_encode, henc]; rfl
  obtain ⟨bs', hbs, hdecode⟩ := roundTrips_of_wf hwf
  obtain rfl : bs = bs' := Option.some.inj (henc.symm.trans hbs)
  exact hdecode rest

/-! ## Base cycle counts (R284) -/

theorem baseCycles_of_lookup {op : Byte} {r : OpcodeRow} (h : lookupOpcode op = some r) : baseCycles op = r.cycles := by
  simp only [baseCycles, h]

theorem baseCycles_of_mem_unpopulated {op : Byte} (h : op ∈ unpopulated) : baseCycles op = 0 := by
  simp only [baseCycles, lookupOpcode_eq_none_iff.2 h]

/-- The count kept in a slot is the one of the instruction it stands for, by group and mode: the 151 slots one by one. -/
theorem cyclesOf_build {r : OpcodeRow} (hr : r ∈ opcodeTable) (b1 b2 : Byte) : cyclesOf (r.build b1 b2) = r.cycles := by
  have htable : opcodeTable.map (fun r => cyclesOf (r.build b1 b2)) = opcodeTable.map (·.cycles) := rfl
  exact List.map_inj_left.1 htable r hr

theorem cyclesOf_decodeOp (op b1 b2 : Byte) : cyclesOf (decodeOp op b1 b2) = baseCycles op := by
  cases hslot : lookupOpcode op with
  | none =>
    have hop := lookupOpcode_eq_none_iff.1 hslot
    rw [decodeOp_of_mem_unpopulated hop, baseCycles_of_mem_unpopulated hop]
    rfl
  | some r =>
    rw [decodeOp_of_lookup hslot, baseCycles_of_lookup hslot]
    exact cyclesOf_build (lookupOpcode_opcode hslot).2 b1 b2

/-- Settles O18: an instruction is what its own opcode byte decodes to (`decode_of_encode`), and for that `cyclesOf_decodeOp`
compares the two tables. -/
theorem baseCyclesAreTheGroupTable : Obligations.BaseCyclesAreTheGroupTable := by
  intro i op operands henc
  obtain ⟨op', _, hbytes, -, rfl⟩ := decode_ok (decode_of_encode henc [])
  obtain rfl : op = op' := (List.cons.inj hbytes).1
  exact (cyclesOf_decodeOp ..).symm

namespace Machine

/-! ## The step on an unpopulated slot (R226) -/

theorem exec_illegal_of_nop {s : State} (h : s.cfg.illegalPolicy = .nop) (op : Byte) : exec (.illegal op) s = .next s := by
  simp only [exec, execIllegal, h]

theorem exec_illegal_of_signal {s : State} (h : s.cfg.illegalPolicy = .signal) (op : Byte) :
    exec (.illegal op) s = .fault (.illegalOpcode op (s.pc - 1#16)) := by
  simp only [exec, execIllegal, h]

/-- Settles O50: one equation per policy. -/
theorem illegalChangesNothing : Obligations.IllegalChangesNothing :=
  fun op _ => ⟨fun h => exec_illegal_of_nop h op, fun h => exec_illegal_of_signal h op⟩

/-- A step on an unpopulated byte is ILLEGAL after the fetch of that byte, and counts no cycle. -/
theorem step_of_mem_unpopulated {s : State} (hrun : s.run = .running) (hop : readByte s s.pc ∈ unpopulated) :
    step s = retire 0 (exec (.illegal (readByte s s.pc)) (afterFetch s)) := by
  rw [step_of_running hrun, fetchInstr_of_operandCount_zero (operandCount_of_mem_unpopulated hop),
    decodeOp_of_mem_unpopulated hop, baseCycles_of_mem_unpopulated hop]

/-- Settles O21: the fetch is that of one byte, ILLEGAL follows its policy, and the address it reports, PC - 1 after the fetch,
is PC before it. -/
theorem stepOfAnUnpopulatedSlot : Obligations.StepOfAnUnpopulatedSlot := by
  intro s hrun hop
  have hstate : stateAfterIllegal s = afterFetch s := by
    rw [stateAfterIllegal, fetchInstr_of_operandCount_zero (operandCount_of_mem_unpopulated hop)]
  refine ⟨hstate, fun hsignal => ?signal, fun hnop => ?nop⟩
  case signal =>
    have haddr : (afterFetch s).pc - 1#16 = s.pc := BitVec.add_sub_cancel s.pc 1#16
    rw [step_of_mem_unpopulated hrun hop, exec_illegal_of_signal (s := afterFetch s) hsignal, haddr]
    rfl
  case nop =>
    rw [step_of_mem_unpopulated hrun hop, exec_illegal_of_nop (s := afterFetch s) hnop, hstate]
    rfl

/-! ## CYC through a step (R285) -/

theorem resolve_cyc (o : Operand) (s : State) : (resolve o s).2.cyc = s.cyc := by
  obtain ⟨io, h, -⟩ := resolve_frame o s
  simp [h]

theorem readOperand_cyc (o : Operand) (s : State) : (readOperand o s).2.cyc = s.cyc := by
  obtain ⟨io, h, -⟩ := readOperand_frame o s
  simp [h]

theorem writeOperand_cyc (o : Operand) (v : Byte) (s : State) : (writeOperand o v s).cyc = s.cyc := by
  obtain ⟨m, io, h, -⟩ := writeOperand_frame o v s
  simp [h]

theorem modifyOperand_cyc (f : Byte → Flags → Byte × Flags) (o : Operand) (s : State) :
    (modifyOperand f o s).cyc = s.cyc := by
  rcases modifyOperand_frame f o s with ⟨-, h⟩ | ⟨-, m, io, p, h, -⟩ <;> simp [h]

theorem branchIf_cyc (cond : Bool) (d : Byte) (s : State) : (branchIf cond d s).cyc = s.cyc := by
  obtain ⟨pc, h⟩ := branchIf_frame cond d s
  simp [h]

theorem fetchInstr_cyc (s : State) : (fetchInstr s).state.cyc = s.cyc := by
  obtain ⟨io, h, -⟩ := fetchInstr_frame s
  simp [h]

/-- No instruction writes CYC, whatever its operand, its address or the branch it takes: group by group. -/
theorem exec_cyc {i : Instr} {s t : State} (h : exec i s = .next t) : t.cyc = s.cyc := by
  revert t
  cases i with
  | lda | ldx | ldy | adc | sbc | and | ora | eor | bit | cmp | cpx | cpy => simp [readOperand_cyc]
  | sta | stx | sty => simp [writeOperand_cyc]
  | inc | dec | asl | lsr | rol | ror => simp [modifyOperand_cyc]
  | tax | tay | txa | tya | tsx | txs | inx | iny | dex | dey | nop | clc | sec | cli | sei | cld | sed | clv => simp
  | pha | php => simp [push_eq]
  | pla | plp => simp [pull_eq]
  | jmp => simp [resolve_cyc]
  | jsr => simp [pushWord_eq]
  | rts => simp [pullWord_eq]
  | brk => simp [takeBreak_eq]
  | rti => simp [returnFromBreak_eq]
  | bcc | bcs | beq | bne | bmi | bpl | bvc | bvs => simp [branchIf_cyc]
  | illegal =>
    intro t h
    rw [exec_illegal_next h]

/-- Settles O23: neither the fetch nor the instruction writes CYC, and the end of the step adds the count of the byte
fetched. -/
theorem stepCountsBaseCyclesOnly : Obligations.StepCountsBaseCyclesOnly := by
  intro s t h
  obtain ⟨-, u, rfl, hu⟩ := step_next h
  rw [addCycles_cyc, exec_cyc hu, fetchInstr_cyc, fetchInstr_op, busRead_eq]

end Machine

end Sys2Proof
end

section
/-! PROOFS. BRK and RTI (spec/47_system_flags.md R210, R211; spec/60_exceptions.md R244, R245), NOP and the flag instructions
(R212 to R219): what the trap leaves of the state and in its three stack cells, the return, and the return from the trap. -/

namespace Sys2Proof.Machine

open Sys2Proof.Claims

/-! ## Trap entry (R210, R244) -/

/-- The status byte BRK pushes: Break set, and I as BRK_PUSHES_I_AFTER_SET has it. -/
def breakStatus (s : State) : Byte := statusByte true { s.p with i := s.p.i || s.cfg.brkPushesIAfterSet }

/-- The pushes of trap entry: the word PC + 1, then the status byte. -/
def pushBreak (s : State) : State := push (breakStatus s) (pushWord (s.pc + 1#16) s)

/-- The pushes neither read the flag latch nor write it, so that BRK may set I before them or after. -/
theorem takeBreak_eq_pushBreak (s : State) :
    takeBreak s = ((pushBreak s).setP { s.p with i := true }).setPC s.vec.brk := by
  have hstatus : statusByte true (if s.cfg.brkPushesIAfterSet then { s.p with i := true } else s.p) = breakStatus s := by
    cases hcfg : s.cfg.brkPushesIAfterSet <;> simp [breakStatus, hcfg]
  rw [takeBreak_eq, hstatus, pushBreak, push_eq, pushWord_eq]
  rfl

theorem pushWord_sp (w : Addr) (s : State) : (pushWord w s).sp = s.sp - 2#8 := by
  rw [pushWord_eq_with_mem]

/-- Trap entry changes PC, SP, I and memory only. -/
theorem takeBreak_eq_with_mem (s : State) :
    takeBreak s =
      { s with pc := s.vec.brk, sp := s.sp - 3#8, p := { s.p with i := true }, mem := (takeBreak s).mem } := by
  have hsp : s.sp - 2#8 - 1#8 = s.sp - 3#8 := by bv_omega
  rw [takeBreak_eq_pushBreak, pushBreak, push_eq_with_mem, pushWord_sp, hsp, pushWord_eq_with_mem]
  rfl

theorem takeBreak_mem (s : State) : (takeBreak s).mem = (pushBreak s).mem := by
  rw [takeBreak_eq_pushBreak, setPC_mem, setP_mem]

theorem read_takeBreak_of_ne_status {b : Nat} {s : State} (hb : b ≠ stackCell (s.sp - 2#8)) :
    (takeBreak s).mem.read b = (pushWord (s.pc + 1#16) s).mem.read b := by
  rw [takeBreak_mem]
  rw [← pushWord_sp (s.pc + 1#16)] at hb
  exact read_push_other _ hb

theorem read_takeBreak_other {b : Nat} {s : State} (hhi : b ≠ stackCell s.sp) (hlo : b ≠ stackCell (s.sp - 1#8))
    (hst : b ≠ stackCell (s.sp - 2#8)) : (takeBreak s).mem.read b = s.mem.read b :=
  (read_takeBreak_of_ne_status hst).trans (read_pushWord_other _ hhi hlo)

/-- The three cells are apart, at the ends of page 1 too. -/
theorem read_takeBreak_high {s : State} (hm : s.mem.wf) :
    (takeBreak s).mem.read (stackCell s.sp) = hiByte (s.pc + 1#16) := by
  have hne : stackCell s.sp ≠ stackCell (s.sp - 2#8) := by
    unfold stackCell
    bv_omega
  exact (read_takeBreak_of_ne_status hne).trans (read_pushWord_high _ hm)

theorem read_takeBreak_low {s : State} (hm : s.mem.wf) :
    (takeBreak s).mem.read (stackCell (s.sp - 1#8)) = loByte (s.pc + 1#16) := by
  have hne : stackCell (s.sp - 1#8) ≠ stackCell (s.sp - 2#8) := by
    unfold stackCell
    bv_omega
  exact (read_takeBreak_of_ne_status hne).trans (read_pushWord_low _ hm)

theorem read_takeBreak_status {s : State} (hm : s.mem.wf) :
    (takeBreak s).mem.read (stackCell (s.sp - 2#8)) = breakStatus s := by
  rw [takeBreak_mem, ← pushWord_sp (s.pc + 1#16)]
  exact read_push_same _ ((pushWord_stepFrame _ s).wf hm)

/-- Settles O47: the state is `takeBreak_eq_with_mem`, and its memory is read cell by cell; `toNat_statusByte` gives the status
byte in numbers. -/
theorem brkTakesTheTrap : Obligations.BrkTakesTheTrap := by
  refine ⟨oneByte_of_encode rfl, fun s => ⟨_, exec_brk s, takeBreak_eq_with_mem s, fun _ => read_takeBreak_other,
    fun hm => ⟨?high, ?low, ?status⟩⟩⟩
  case high => rw [read_takeBreak_high hm, toNat_hiByte]
  case low => rw [read_takeBreak_low hm, toNat_loByte]
  case status => rw [read_takeBreak_status hm, breakStatus, toNat_statusByte]

/-! ## Trap return (R211, R245) -/

/-- `returnFromBreak_eq` with the stack addresses in numbers. -/
theorem returnFromBreak_eq_stackCell (s : State) :
    returnFromBreak s =
      { s with
        sp := s.sp + 3#8
        p := flagsOfStatus (s.mem.read (stackCell (s.sp + 1#8)))
        pc := joinBytes (s.mem.read (stackCell (s.sp + 3#8))) (s.mem.read (stackCell (s.sp + 2#8))) } := by
  have h2 : s.sp + 1#8 + 1#8 = s.sp + 2#8 := BitVec.add_assoc s.sp 1#8 1#8
  have h3 : s.sp + 2#8 + 1#8 = s.sp + 3#8 := BitVec.add_assoc s.sp 2#8 1#8
  simp only [returnFromBreak_eq, toNat_stackAddr_eq_stackCell, h2, h3]
  rfl

/-- Settles O48: `returnFromBreak_eq_stackCell`; SetStatus reads a byte's bits and `joinBytes` is the little-endian value, both
by definition. -/
theorem rtiReturnsFromTheTrap : Obligations.RtiReturnsFromTheTrap := by
  refine ⟨oneByte_of_encode rfl, fun s => ?_⟩
  rw [exec_rti, returnFromBreak_eq_stackCell]
  rfl

/-- Settles O55: RTI reads the three cells that BRK wrote, so that PC is the PC + 1 pushed and the flags are those of the status
byte (`flagsOfStatus_statusByte`), Break and all. -/
theorem brkThenRtiReturns : Obligations.BrkThenRtiReturns := by
  refine fun s hm => ⟨_, _, exec_brk s, exec_rti _, ?_⟩
  have hsp : (takeBreak s).sp = s.sp - 3#8 := by rw [takeBreak_eq_with_mem]
  have h1 : s.sp - 3#8 + 1#8 = s.sp - 2#8 := by bv_omega
  have h2 : s.sp - 3#8 + 2#8 = s.sp - 1#8 := by bv_omega
  have h3 : s.sp - 3#8 + 3#8 = s.sp := BitVec.sub_add_cancel s.sp 3#8
  rw [returnFromBreak_eq_stackCell, hsp, h1, h2, h3, read_takeBreak_high hm, read_takeBreak_low hm,
    read_takeBreak_status hm, joinBytes_hiByte_loByte, breakStatus, flagsOfStatus_statusByte, takeBreak_eq_with_mem]

/-! ## NOP and the flag instructions (R212 to R219) -/

/-- Settles O49: the equation of each instruction. -/
theorem nopAndFlagInstructions : Obligations.NopAndFlagInstructions :=
  ⟨oneByte_of_encode rfl, oneByte_of_encode rfl, oneByte_of_encode rfl, oneByte_of_encode rfl, oneByte_of_encode rfl,
    oneByte_of_encode rfl, oneByte_of_encode rfl, oneByte_of_encode rfl, fun s =>
    ⟨exec_nop s, exec_clc s, exec_sec s, exec_cli s, exec_sei s, exec_cld s, exec_sed s, exec_clv s⟩⟩

end Sys2Proof.Machine
end

section
/-! PROOFS. Conditional branches (spec/48_branches.md R230 to R238): the target in integers, and with it the eight
instructions, which differ in the condition alone. -/

namespace Sys2Proof.Machine

open Sys2Proof.Claims

/-- sext_16 keeps a byte's signed value (R8): 0xFF00 is -256. -/
theorem sext16_eq_ofInt (d : Byte) : sext16 d = BitVec.ofInt 16 d.toInt := by
  have hzext : zext16 d = BitVec.ofInt 16 d.toNat := by rw [BitVec.ofInt_natCast, zext16_eq_ofNat]
  rw [sext16, getLsbD_seven_eq_decide, toInt_byte, hzext]
  by_cases hneg : 128 ≤ d.toNat
  · simp only [hneg, decide_true, if_true, Int.sub_eq_add_neg, BitVec.ofInt_add]
    rfl
  · simp [hneg]

/-- The target of a branch wraps modulo 65536 (R230). -/
theorem add_sext16_eq_ofInt (pc : Addr) (d : Byte) : pc + sext16 d = BitVec.ofInt 16 ((pc.toNat : Int) + d.toInt) := by
  rw [BitVec.ofInt_add, BitVec.ofInt_natCast, BitVec.ofNat_toNat, BitVec.setWidth_eq, sext16_eq_ofInt]

/-- An instruction that branches on a test of the flags branches under the condition the test decides. -/
theorem branchesWhen_of_exec {c : Byte → Instr} {test : Flags → Bool} {cond : Flags → Prop}
    (hexec : ∀ d s, exec (c d) s = .next (branchIf (test s.p) d s)) (htest : ∀ p, test p = true ↔ cond p) :
    BranchesWhen c cond := by
  refine fun d s => ⟨fun hcond => ?taken, fun hcond => ?notTaken⟩
  case taken =>
    rw [hexec, (htest s.p).2 hcond, ← add_sext16_eq_ofInt]
    rfl
  case notTaken =>
    rw [hexec, eq_false_of_ne_true (mt (htest s.p).1 hcond)]
    rfl

/-- Settles O51: the encodings by `decode_of_encode`, each branch by `branchesWhen_of_exec`. -/
theorem branchesAddTheDisplacement : Obligations.BranchesAddTheDisplacement := by
  have hclear (b : Bool) : (!b) = true ↔ b = false := iff_of_eq (Bool.not_eq_true' b)
  refine ⟨fun d rest => ?_,
    branchesWhen_of_exec exec_bcc fun p => hclear p.c, branchesWhen_of_exec exec_bcs fun _ => Iff.rfl,
    branchesWhen_of_exec exec_beq fun _ => Iff.rfl, branchesWhen_of_exec exec_bne fun p => hclear p.z,
    branchesWhen_of_exec exec_bmi fun _ => Iff.rfl, branchesWhen_of_exec exec_bpl fun p => hclear p.n,
    branchesWhen_of_exec exec_bvc fun p => hclear p.v, branchesWhen_of_exec exec_bvs fun _ => Iff.rfl⟩
  have hdecode {i : Instr} {op : Byte} (henc : encode i = some [op, d]) : decode (op :: d :: rest) = .ok (i, rest) :=
    decode_of_encode henc rest
  exact ⟨hdecode rfl, hdecode rfl, hdecode rfl, hdecode rfl, hdecode rfl, hdecode rfl, hdecode rfl, hdecode rfl⟩

end Sys2Proof.Machine
end

section
/-! PROOFS. The host interface (spec/60_exceptions.md R251, R252; spec/70_reset_and_hazards.md R271 to R273): Load, Boot, a key
press and its strobe, and the lifecycle. -/

namespace Sys2Proof.Machine

open Sys2Proof.Claims

/-! ## Load (R272) -/

/-- A load puts byte k at the k-th address of its range: the bytes after it go to other addresses. -/
theorem Memory.read_writeAll_same {vs : List Byte} {m : Memory} {a k : Nat} (hm : m.wf) (ha : a + vs.length ≤ 65536)
    (hk : k < vs.length) : (m.writeAll a vs).read (a + k) = vs[k] := by
  induction vs generalizing m a k with
  | nil => exact absurd hk k.not_lt_zero
  | cons v vs ih =>
    rw [List.length_cons] at ha hk
    rw [Memory.writeAll]
    cases k with
    | zero =>
      rw [Memory.read_writeAll_other (by omega)]
      exact Memory.read_write_same hm
    | succ k =>
      have hwf : (m.write a v).wf := Memory.wf_write hm (by omega)
      rw [← Nat.add_assoc, Nat.add_right_comm]
      exact ih hwf (by omega) (by omega)

theorem hostLoad_of_le {offset : Addr} {bytes : List Byte} (h : offset.toNat + bytes.length ≤ 65536) (s : State) :
    hostLoad offset bytes s = .next (s.setMem (s.mem.writeAll offset.toNat bytes)) :=
  if_pos h

theorem hostLoad_of_lt {offset : Addr} {bytes : List Byte} (h : 65536 < offset.toNat + bytes.length) (s : State) :
    hostLoad offset bytes s = .refused .loadPastEnd :=
  if_neg (Nat.not_le.2 h)

/-- Settles O4: a load that fits is `Memory.writeAll` at its offset, which the laws of the backing array and
`Memory.read_writeAll_same` describe. -/
theorem loadCopiesBytesPastTheBusDecode : Obligations.LoadCopiesBytesPastTheBusDecode := by
  refine fun offset bytes s =>
    ⟨fun hfits => ⟨_, hostLoad_of_le hfits s, rfl, ?others, ?copied⟩, fun hlong => hostLoad_of_lt hlong s⟩
  case others => exact fun b hb => Memory.read_writeAll_other hb
  case copied => exact fun hm k hk => Memory.read_writeAll_same hm hfits hk

/-! ## Boot (R273) -/

theorem hostBoot_of_constructed {s : State} (h : s.run = .constructed) : hostBoot s = .next (bootState s) := by
  simp only [hostBoot, h]

theorem hostBoot_of_ne_constructed {s : State} (h : s.run ≠ .constructed) : hostBoot s = .refused .bootOutsideReset := by
  cases hrun : s.run with
  | constructed => exact absurd hrun h
  | running | halted => simp only [hostBoot, hrun]

/-- Settles O3: `hostBoot_of_constructed`, with a vector slot the little-endian value by definition, and its counterpart. -/
theorem bootCachesVectorsAndLoadsPc : Obligations.BootCachesVectorsAndLoadsPc :=
  fun _ => ⟨hostBoot_of_constructed, hostBoot_of_ne_constructed⟩

/-! ## A key press (R252, R51, R52) -/

/-- The keyboard data address reads as the key byte and has no side effect (R51). -/
theorem busRead_keyDataAddr (s : State) : busRead keyDataAddr s = (keyByte s.io, s) := rfl

theorem keyByte_of_not_pending {io : IoLatches} (h : io.keyPending = false) : keyByte io = 0 := by
  simp [keyByte, h]

theorem keyByte_hostKeyPressed (code : Byte) (s : State) :
    keyByte (hostKeyPressed code s).io = BitVec.ofNat 8 (0x80 + code.toNat % 128) := by
  rw [keyByte_eq]
  rfl

/-- An access at the strobe clears the pending flag, as a read and as a write (R51, R52). -/
theorem busRead_keyStrobeAddr_keyPending (s : State) : (busRead keyStrobeAddr s).2.io.keyPending = false := by
  rw [busRead_eq, ioAfter_keyStrobeAddr]
  rfl

theorem busWrite_keyStrobeAddr_keyPending (v : Byte) (s : State) :
    (busWrite keyStrobeAddr v s).io.keyPending = false := by
  rw [busWrite_of_le (by decide), ioAfter_keyStrobeAddr]
  rfl

/-- Settles O5: 0xC000 reads as `keyByte`, which is 0 once the strobe has cleared the pending flag. -/
theorem keyPressedIsReadUntilTheStrobe : Obligations.KeyPressedIsReadUntilTheStrobe := by
  refine fun code s => ⟨rfl, BitVec.toNat_setWidth 7 code, rfl, ?pending, ?afterRead, ?afterWrite⟩
  case pending => exact (busRead_keyDataAddr _).trans (by rw [keyByte_hostKeyPressed])
  case afterRead => exact keyByte_of_not_pending (busRead_keyStrobeAddr_keyPending (hostKeyPressed code s))
  case afterWrite => exact keyByte_of_not_pending (busWrite_keyStrobeAddr_keyPending code (hostKeyPressed code s))

/-! ## The lifecycle (R31, R251, R271) -/

theorem step_of_constructed {s : State} (h : s.run = .constructed) : step s = .refused .stepBeforeBoot := by
  simp only [step, h]

theorem step_of_halted {s : State} (h : s.run = .halted) : step s = .refused .stepAfterHalt := by
  simp only [step, h]

/-- Every host operation that a halted machine answers leaves it halted: Boot and step refuse it. -/
theorem hostDo_keeps_halted {op : HostOp} {s t : State} (hrun : s.run = .halted) (h : hostDo op s = .next t) :
    t.run = .halted := by
  cases op with
  | load offset bytes =>
    obtain ⟨-, rfl⟩ := hostLoad_next h
    exact hrun
  | boot => exact absurd ((hostBoot_next h).1.symm.trans hrun) (by decide)
  | step => exact absurd ((step_next h).1.symm.trans hrun) (by decide)
  | keyPressed code =>
    cases h
    exact hrun
  | stop =>
    cases h
    rfl

/-- Settles O6: the equations of `step` outside the running state, and `hostDo_keeps_halted`. -/
theorem stepOutsideTheLifecycleIsRefused : Obligations.StepOutsideTheLifecycleIsRefused :=
  ⟨fun _ => step_of_constructed, fun _ => step_of_halted, fun _ => rfl, fun _ _ _ => hostDo_keeps_halted, rfl, rfl⟩

end Sys2Proof.Machine
end
